-- ==== Sys2Proof/Word.lean ====
section
/-! DEFINITION. The word types of the machine (00_scope.md rule R6, rule R7): every quantity is unsigned and wraps. -/

namespace Sys2Proof

/-- `u8` of rule R7: one byte of memory, one general register. -/
abbrev Byte := BitVec 8

/-- `u16` of rule R7: the instruction word, the stored `PC` and `I`, one stack entry. -/
abbrev Word := BitVec 16

/-- `u12` of rule R7: the immediate `nnn` of rule R92. -/
abbrev Addr12 := BitVec 12

/-- `zext_16` of a byte (rule R7). -/
def zext8 (b : Byte) : Word := b.setWidth 16

/-- `zext_16` of a 12-bit immediate (rule R7, rule R94). -/
def zext12 (a : Addr12) : Word := a.setWidth 16

/-- A flag value as a byte: 0x01 or 0x00 (rule R26). -/
def flagByte (c : Bool) : Byte := if c then 1#8 else 0#8

end Sys2Proof
end

