-- ==== Sys2Proof/Decode.lean ====
section
/-! DEFINITION. The decoder and the encoder (30_encoding.md rule R90 to rule R102, 40_step_cycle.md rule R124).

The opcode map is kept as data, one row per instruction, as 30_encoding.md asks. Its bit patterns are the spec's
(rule R95 to rule R99, decision D1 and D2; log entry 4). -/

namespace Sys2Proof

/-- Why two bytes are no instruction. There is one cause (60_exceptions.md rule R251), and it carries the two raw bytes. -/
inductive Reject where
  /-- the word `hi ++ lo` selects no row of the opcode map (rule R100) -/
  | unknownOpcode (hi lo : Byte)
deriving DecidableEq, Repr

/-- `n0`, bits 15:12 (rule R92): the primary opcode. -/
def fieldN0 (w : Word) : BitVec 4 := w.extractLsb' 12 4

/-- `x = n1`, bits 11:8 (rule R92, rule R93). -/
def fieldX (w : Word) : Reg := (w.extractLsb' 8 4).toFin

/-- `y = n2`, bits 7:4 (rule R92, rule R93). -/
def fieldY (w : Word) : Reg := (w.extractLsb' 4 4).toFin

/-- `n = n3`, bits 3:0, as a count (rule R92, rule R93). -/
def fieldN (w : Word) : Nat := (w.extractLsb' 0 4).toNat

/-- `nnn`, bits 11:0 (rule R92). -/
def fieldNNN (w : Word) : Addr12 := w.extractLsb' 0 12

/-- `kk`, bits 7:0 (rule R92). -/
def fieldKK (w : Word) : Byte := w.extractLsb' 0 8

/-- The word of HRCLS: the parameter `HRCLS_ENCODING` (rule R95, decision D2). -/
def hrclsWord : Word := 0x0230#16

/-- One row of the opcode map: the word `w` selects it when `w AND mask = value` (section 3 of 30_encoding.md). -/
structure Row where
  mnemonic : String
  value : Word
  mask : Word
  build : Word → Instr

/-- `w AND mask = match`. -/
def Row.matches (r : Row) (w : Word) : Bool := w &&& r.mask == r.value

/-- Rule R95: `n0 = 0x0`, three full 16-bit matches. -/
def rowsZero : List Row := [
  ⟨"CLS", 0x00E0#16, 0xFFFF#16, fun _ => .cls⟩,
  ⟨"RET", 0x00EE#16, 0xFFFF#16, fun _ => .ret⟩,
  ⟨"HRCLS", hrclsWord, 0xFFFF#16, fun _ => .hrcls⟩]

/-- Rule R96: the primary opcodes selected by `n0` alone, and the two register-compare skips. -/
def rowsPrimary : List Row := [
  ⟨"JP_nnn", 0x1000#16, 0xF000#16, fun w => .jp (fieldNNN w)⟩,
  ⟨"CALL_nnn", 0x2000#16, 0xF000#16, fun w => .call (fieldNNN w)⟩,
  ⟨"SE_Vx__kk", 0x3000#16, 0xF000#16, fun w => .seImm (fieldX w) (fieldKK w)⟩,
  ⟨"SNE_Vx__kk", 0x4000#16, 0xF000#16, fun w => .sneImm (fieldX w) (fieldKK w)⟩,
  ⟨"SE_Vx__Vy", 0x5000#16, 0xF00F#16, fun w => .seReg (fieldX w) (fieldY w)⟩,
  ⟨"LD_Vx__kk", 0x6000#16, 0xF000#16, fun w => .ldImm (fieldX w) (fieldKK w)⟩,
  ⟨"ADD_Vx__kk", 0x7000#16, 0xF000#16, fun w => .addImm (fieldX w) (fieldKK w)⟩,
  ⟨"SNE_Vx__Vy", 0x9000#16, 0xF00F#16, fun w => .sneReg (fieldX w) (fieldY w)⟩,
  ⟨"LD_I__nnn", 0xA000#16, 0xF000#16, fun w => .ldI (fieldNNN w)⟩,
  ⟨"JP_V0__nnn", 0xB000#16, 0xF000#16, fun w => .jpV0 (fieldNNN w)⟩,
  ⟨"RND_Vx__kk", 0xC000#16, 0xF000#16, fun w => .rnd (fieldX w) (fieldKK w)⟩,
  ⟨"DRW_Vx__Vy__n", 0xD000#16, 0xF000#16, fun w => .drw (fieldX w) (fieldY w) (fieldN w)⟩]

/-- Rule R97: `n0 = 0x8`, nine instructions selected by `n3`. -/
def rowsAlu : List Row := [
  ⟨"LD_Vx__Vy", 0x8000#16, 0xF00F#16, fun w => .ldReg (fieldX w) (fieldY w)⟩,
  ⟨"OR_Vx__Vy", 0x8001#16, 0xF00F#16, fun w => .orReg (fieldX w) (fieldY w)⟩,
  ⟨"AND_Vx__Vy", 0x8002#16, 0xF00F#16, fun w => .andReg (fieldX w) (fieldY w)⟩,
  ⟨"XOR_Vx__Vy", 0x8003#16, 0xF00F#16, fun w => .xorReg (fieldX w) (fieldY w)⟩,
  ⟨"ADD_Vx__Vy", 0x8004#16, 0xF00F#16, fun w => .addReg (fieldX w) (fieldY w)⟩,
  ⟨"SUB_Vx__Vy", 0x8005#16, 0xF00F#16, fun w => .subReg (fieldX w) (fieldY w)⟩,
  ⟨"SHR_Vx", 0x8006#16, 0xF00F#16, fun w => .shr (fieldX w) (fieldY w)⟩,
  ⟨"SUBN_Vx__Vy", 0x8007#16, 0xF00F#16, fun w => .subnReg (fieldX w) (fieldY w)⟩,
  ⟨"SHL_Vx", 0x800E#16, 0xF00F#16, fun w => .shl (fieldX w) (fieldY w)⟩]

/-- Rule R98: `n0 = 0xE`, two instructions selected by the low byte. -/
def rowsKey : List Row := [
  ⟨"SKP_Vx", 0xE09E#16, 0xF0FF#16, fun w => .skp (fieldX w)⟩,
  ⟨"SKNP_Vx", 0xE0A1#16, 0xF0FF#16, fun w => .sknp (fieldX w)⟩]

/-- Rule R99: `n0 = 0xF`, eight instructions selected by the low byte. -/
def rowsMisc : List Row := [
  ⟨"LD_Vx__DT", 0xF007#16, 0xF0FF#16, fun w => .ldVxDt (fieldX w)⟩,
  ⟨"LD_DT__Vx", 0xF015#16, 0xF0FF#16, fun w => .ldDtVx (fieldX w)⟩,
  ⟨"LD_ST__Vx", 0xF018#16, 0xF0FF#16, fun w => .ldStVx (fieldX w)⟩,
  ⟨"ADD_I__Vx", 0xF01E#16, 0xF0FF#16, fun w => .addI (fieldX w)⟩,
  ⟨"LD_F__Vx", 0xF029#16, 0xF0FF#16, fun w => .ldF (fieldX w)⟩,
  ⟨"LD_B__Vx", 0xF033#16, 0xF0FF#16, fun w => .ldB (fieldX w)⟩,
  ⟨"LD__I___Vx", 0xF055#16, 0xF0FF#16, fun w => .storeRegs (fieldX w)⟩,
  ⟨"LD_Vx___I", 0xF065#16, 0xF0FF#16, fun w => .loadRegs (fieldX w)⟩]

/-- The opcode map: 3 + 12 + 9 + 2 + 8 = 34 rows. -/
def opcodeRows : List Row := rowsZero ++ rowsPrimary ++ rowsAlu ++ rowsKey ++ rowsMisc

/-- The row a word selects, if any (rule R124: exactly one row or unmatched). -/
def selectRow (w : Word) : Option Row := opcodeRows.find? (·.matches w)

/-- Decode the word `hi ++ lo` (rule R91); total on any two bytes, rejecting by name what no row matches (rule R100). -/
def decode (hi lo : Byte) : Except Reject Instr :=
  match selectRow (hi ++ lo) with
  | some r => .ok (r.build (hi ++ lo))
  | none => .error (.unknownOpcode hi lo)

/-! The encoder, from the formats of rule R93. -/

/-- Format `NNN`: `n0 nnn`. -/
def packNNN (n0 : BitVec 4) (nnn : Addr12) : Word := n0 ++ nnn

/-- Formats `XKK` and `X`: `n0 x` and the low byte. -/
def packXKK (n0 : BitVec 4) (x : Reg) (kk : Byte) : Word := n0 ++ BitVec.ofFin (w := 4) x ++ kk

/-- Formats `XY` and `XYN`: four nibbles. -/
def packXY (n0 : BitVec 4) (x y : Reg) (n3 : BitVec 4) : Word :=
  n0 ++ BitVec.ofFin (w := 4) x ++ BitVec.ofFin (w := 4) y ++ n3

/-- The word of an instruction (rule R95 to rule R99). -/
def encode : Instr → Word
  | .cls => 0x00E0#16
  | .ret => 0x00EE#16
  | .hrcls => hrclsWord
  | .jp nnn => packNNN 0x1#4 nnn
  | .call nnn => packNNN 0x2#4 nnn
  | .seImm x kk => packXKK 0x3#4 x kk
  | .sneImm x kk => packXKK 0x4#4 x kk
  | .seReg x y => packXY 0x5#4 x y 0x0#4
  | .ldImm x kk => packXKK 0x6#4 x kk
  | .addImm x kk => packXKK 0x7#4 x kk
  | .ldReg x y => packXY 0x8#4 x y 0x0#4
  | .orReg x y => packXY 0x8#4 x y 0x1#4
  | .andReg x y => packXY 0x8#4 x y 0x2#4
  | .xorReg x y => packXY 0x8#4 x y 0x3#4
  | .addReg x y => packXY 0x8#4 x y 0x4#4
  | .subReg x y => packXY 0x8#4 x y 0x5#4
  | .shr x y => packXY 0x8#4 x y 0x6#4
  | .subnReg x y => packXY 0x8#4 x y 0x7#4
  | .shl x y => packXY 0x8#4 x y 0xE#4
  | .sneReg x y => packXY 0x9#4 x y 0x0#4
  | .ldI nnn => packNNN 0xA#4 nnn
  | .jpV0 nnn => packNNN 0xB#4 nnn
  | .rnd x kk => packXKK 0xC#4 x kk
  | .drw x y n => packXY 0xD#4 x y (BitVec.ofNat 4 n)
  | .skp x => packXKK 0xE#4 x 0x9E#8
  | .sknp x => packXKK 0xE#4 x 0xA1#8
  | .ldVxDt x => packXKK 0xF#4 x 0x07#8
  | .ldDtVx x => packXKK 0xF#4 x 0x15#8
  | .ldStVx x => packXKK 0xF#4 x 0x18#8
  | .addI x => packXKK 0xF#4 x 0x1E#8
  | .ldF x => packXKK 0xF#4 x 0x29#8
  | .ldB x => packXKK 0xF#4 x 0x33#8
  | .storeRegs x => packXKK 0xF#4 x 0x55#8
  | .loadRegs x => packXKK 0xF#4 x 0x65#8

/-- The byte at the lower address (rule R91). -/
def encodeHi (i : Instr) : Byte := (encode i).extractLsb' 8 8

/-- The byte at the higher address (rule R91). -/
def encodeLo (i : Instr) : Byte := (encode i).extractLsb' 0 8

/-- The two bytes of the table word `w` of `nbits` bits as the hardware stores them: one 16-bit word, high byte first
(rule R63, rule R91); bits above `nbits` are 0. -/
def tableBytes (nbits w : Nat) : Byte × Byte :=
  let word := BitVec.ofNat 16 (w % 2 ^ nbits)
  (word.extractLsb' 8 8, word.extractLsb' 0 8)

/-- The instruction the decoder reads from a table word. -/
def decodeTableWord (nbits w : Nat) : Option Instr :=
  match decode (tableBytes nbits w).1 (tableBytes nbits w).2 with
  | .ok i => some i
  | .error _ => none

end Sys2Proof
end

