-- ==== Sys2Proof/Config.lean ====
section
/-! DEFINITION. What the hardware's parameters can be (00_scope.md rule R5) and the free values.

The VALUES of the parameters are in `Machine/Params.lean`. The free values are opaque: nothing in Lean can evaluate them,
so whatever is proved holds for every value of them (log entry 1). -/

namespace Sys2Proof.Config

/-- `TIMER_CATCHUP` (rule R5, decision D20): one timer tick per step at most, or as many as fit. -/
inductive TimerCatchup where
  | single
  | loop
deriving DecidableEq, Repr

/-- `VF_ORDER` (rule R5, decision D11): which of the two writes of a flag-setting instruction comes last. -/
inductive VfOrder where
  | flagLast
  | resultLast
deriving DecidableEq, Repr

/-- `SHIFT_SOURCE` (rule R5, decision D10): the register 8xy6 and 8xyE shift. -/
inductive ShiftSource where
  | vx
  | vy
deriving DecidableEq, Repr

/-- `FONT_INDEX` (rule R5, decision D15): the digit Fx29 looks up. -/
inductive FontIndex where
  | fullByte
  | lowNibble
deriving DecidableEq, Repr

/-- The parameters of rule R5 that a rule of the spec reads and that are no width of a type. -/
structure Params where
  /-- `STACK_BASE` -/
  stackBase : Nat
  /-- `FONT_BASE` -/
  fontBase : Nat
  /-- Bytes of one glyph (rule R70). -/
  glyphBytes : Nat
  /-- `PROG_BASE` -/
  progBase : Nat
  /-- `ROM_MAX` -/
  romMax : Nat
  /-- `TIMER_PERIOD_NS` -/
  timerPeriodNs : Nat
  /-- `TIMER_CATCHUP` -/
  timerCatchup : TimerCatchup
  /-- `VF_ORDER` -/
  vfOrder : VfOrder
  /-- `SHIFT_SOURCE` -/
  shiftSource : ShiftSource
  /-- `FONT_INDEX` -/
  fontIndex : FontIndex
  /-- `LDST_MOVES_I` -/
  ldstMovesI : Bool
deriving DecidableEq, Repr

/-- FREE VALUE (log entry 1): nanoseconds between the clock sample before and the sample number `n` (rule R264, rule R270).
Being an increment it is monotone whatever it is (log entry 2). -/
opaque freeElapsed (n : Nat) : Nat

/-- FREE VALUE (log entry 1): the answer to the random query number `n` (rule R271); no rule constrains it. -/
opaque freeRandom (n : Nat) : Byte

/-- FREE VALUE (log entry 1): the answer to the key query number `n` for keypad symbol `k` (rule R272). -/
opaque freeKey (n : Nat) (k : Fin 16) : Bool

end Sys2Proof.Config
end

