-- ==== Sys2Proof/Machine/Params.lean ====
section
/-! DEFINITION. The values of the parameters (00_scope.md rule R5) and the font table (20_memory.md rule R70).

Each value is the one "every rule and every test vector of this spec uses" (rule R5). They stand here, not in `Config.lean`,
so that one of them can be mended alone. -/

namespace Sys2Proof.Machine

/-- The parameters of this hardware (rule R5; log entries 7 to 11, 13, 15). -/
def params : Config.Params where
  stackBase := 0x100
  fontBase := 0x000
  glyphBytes := 5
  progBase := 0x200
  romMax := 2048
  timerPeriodNs := 16666666
  timerCatchup := .single
  vfOrder := .flagLast
  shiftSource := .vx
  fontIndex := .fullByte
  ldstMovesI := false

/-- `MEM_SIZE` (rule R5): the bus reduces every address modulo this (rule R60). -/
def memSize : Nat := 4096

/-- Glyphs 0 to 7 (rule R70, decision D24; log entry 12). -/
def fontLow : List Byte :=
  [0xF0#8, 0x90#8, 0x90#8, 0x90#8, 0xF0#8] ++ [0x20#8, 0x60#8, 0x20#8, 0x20#8, 0x70#8] ++
  [0xF0#8, 0x10#8, 0xF0#8, 0x80#8, 0xF0#8] ++ [0xF0#8, 0x10#8, 0xF0#8, 0x10#8, 0xF0#8] ++
  [0x90#8, 0x90#8, 0xF0#8, 0x10#8, 0x10#8] ++ [0xF0#8, 0x80#8, 0xF0#8, 0x10#8, 0xF0#8] ++
  [0xF0#8, 0x80#8, 0xF0#8, 0x90#8, 0xF0#8] ++ [0xF0#8, 0x10#8, 0x20#8, 0x40#8, 0x40#8]

/-- Glyphs 8 to F (rule R70, decision D24; log entry 12). -/
def fontHigh : List Byte :=
  [0xF0#8, 0x90#8, 0xF0#8, 0x90#8, 0xF0#8] ++ [0xF0#8, 0x90#8, 0xF0#8, 0x10#8, 0xF0#8] ++
  [0xF0#8, 0x90#8, 0xF0#8, 0x90#8, 0x90#8] ++ [0xE0#8, 0x90#8, 0xE0#8, 0x90#8, 0xE0#8] ++
  [0xF0#8, 0x80#8, 0x80#8, 0x80#8, 0xF0#8] ++ [0xE0#8, 0x90#8, 0x90#8, 0x90#8, 0xE0#8] ++
  [0xF0#8, 0x80#8, 0xF0#8, 0x80#8, 0xF0#8] ++ [0xF0#8, 0x80#8, 0xF0#8, 0x80#8, 0x80#8]

/-- `FONT` (rule R5): the 80 bytes at 0x000 to 0x04F. -/
def font : List Byte := fontLow ++ fontHigh

end Sys2Proof.Machine
end

