-- ==== Sys2Proof/Machine/Memory.lean ====
section
/-! DEFINITION. Memory as data: the bytes that differ from the reset contents, by address (20_memory.md, 10_state.md rule R37). -/

namespace Sys2Proof.Machine

/-- The bytes of the one address space that differ from what an unlisted address reads as, in rising order of address. -/
abbrev Memory := List Host.Cell

/-- What an unlisted address reads as: the reset contents with no program image (70_reset_and_hazards.md rule R290), that is
the font at 0x000 to 0x04F and 0x00 everywhere else (log entry 3). -/
def background (a : Nat) : Byte := font.getD a 0#8

/-- The canonical form: addresses strictly rising and inside the space, no entry equal to what an unlisted address reads as. -/
abbrev Memory.wf (m : Memory) : Prop :=
  m.Pairwise (fun c d => c.1 < d.1) ∧ ∀ c ∈ m, c.1 < memSize ∧ c.2 ≠ background c.1

/-- The byte at index `a` (rule R61). -/
def Memory.read (m : Memory) (a : Nat) : Byte :=
  match m with
  | [] => background a
  | c :: rest => if c.1 = a then c.2 else Memory.read rest a

/-- `m` without an entry for `a`. -/
def Memory.dropCell (m : Memory) (a : Nat) : Memory := m.filter (fun c => c.1 != a)

/-- `m` with the entry `(a, b)` in its place by address. -/
def Memory.putCell (m : Memory) (a : Nat) (b : Byte) : Memory :=
  match m with
  | [] => [(a, b)]
  | c :: rest => if a < c.1 then (a, b) :: c :: rest else c :: Memory.putCell rest a b

/-- `m` with `b` at index `a` (rule R62), in canonical form: writing what an unlisted address reads as removes the entry. -/
def Memory.write (m : Memory) (a : Nat) (b : Byte) : Memory :=
  if b = background a then m.dropCell a else (m.dropCell a).putCell a b

/-- `m` with 0x00 at every index from `PROG_BASE` up: no entry there, since those indexes read 0x00 unlisted. -/
def Memory.zeroProgram (m : Memory) : Memory := m.filter (fun c => c.1 < params.progBase)

end Sys2Proof.Machine
end

