-- ==== Sys2Proof/Machine/State.lean ====
section
/-! DEFINITION. The state of the machine as plain data (10_state.md), why a step can stop, and the state after reset. -/

namespace Sys2Proof.Machine

/-- `phase` of rule R39: the number `k` stands for the exact rational `k/10` in [0, 1] (rule R39, decision D5; log entry 5). -/
abbrev Phase := Fin 11

/-- The phase 1: a settled pixel (rule R39). -/
def Phase.settled : Phase := 10

/-- One pixel, "{lit: boolean, phase: real in [0,1]}" (rule R38). -/
structure Pixel where
  lit : Bool
  phase : Phase
deriving DecidableEq, Repr

/-- The display grid, 32 rows of 64 columns, row-major (rule R38). -/
abbrev Grid := Vector (Vector Pixel 64) 32

/-- `lit = false`, `phase = 0`: the default of every pixel (rule R38, rule R39). -/
def Pixel.dark : Pixel := { lit := false, phase := 0 }

/-- The grid with every pixel at its default. -/
def Grid.dark : Grid := Vector.replicate 32 (Vector.replicate 64 Pixel.dark)

/-- THE MODEL'S OWN (log entry 1): the host's answers to the three inputs of 60_exceptions.md section 8. What is already decided
stands in the three lists, oldest first; past a list's end the answer is a free value of `Config`, numbered by the count of
earlier queries. -/
structure Inputs where
  /-- the last clock sample taken, in nanoseconds (rule R264) -/
  clockNs : Nat
  /-- nanoseconds from each clock sample to the next, for the coming steps -/
  elapsed : List Nat
  /-- answers of `RandByte()` (rule R271) -/
  random : List Byte
  /-- the 16 key states at each coming key query (rule R272) -/
  keypad : List (Vector Bool 16)
  /-- how often the clock was sampled -/
  clockReads : Nat
  /-- how often the random source was queried -/
  randomReads : Nat
  /-- how often the keypad was queried -/
  keyReads : Nat
deriving DecidableEq, Repr

/-- Everything 10_state.md gives the machine, and the inputs. -/
structure State where
  /-- `V[0]` to `V[15]` (rule R20); VF is `V[15]` (rule R26) -/
  v : Vector Byte 16
  /-- the index register (rule R36) -/
  i : Word
  /-- the program counter (rule R23) -/
  pc : Word
  /-- the stack pointer (rule R27) -/
  sp : Byte
  /-- the delay timer (rule R28) -/
  dt : Byte
  /-- the sound timer (rule R29) -/
  st : Byte
  /-- the timer accumulator (rule R41) -/
  accNs : Nat
  /-- the timer reference timestamp (rule R42) -/
  tsRef : Option Nat
  /-- the stopped latch (rule R30) -/
  halted : Bool
  /-- the high byte of the faulting word (rule R31) -/
  faultHi : Byte
  /-- the low byte of the faulting word (rule R31) -/
  faultLo : Byte
  /-- the 4096 bytes (rule R37), in the form of `Memory.wf` -/
  mem : Memory
  /-- `lit` and `phase` of the 2048 pixels (rule R38, rule R39) -/
  grid : Grid
  /-- the host's inputs -/
  inputs : Inputs
deriving DecidableEq, Repr

/-- Why the machine stops. -/
inductive Fault where
  /-- Raised by `step` on a core whose `halted` is set: "the engine must stop execution", no step exists (40_step_cycle.md
  rule R121); it carries the fault report `fault_hi`, `fault_lo` of 60_exceptions.md rule R275. SAFE: the spec's own stop. -/
  | halted (hi lo : Byte)
deriving DecidableEq, Repr

/-- Why the model gives no meaning. -/
inductive Refusal where
  /-- Raised by an arm of `exec` for an instruction with no meaning yet. SAFE. No arm raises it now. -/
  | notModelled (mnemonic : String)
  /-- Raised by `hostReset` and `hostLoad` for an image longer than `ROM_MAX`: it is never presented to the core
  (70_reset_and_hazards.md rule R298, 93_implementation_defined.md U14). SAFE. No step raises it. -/
  | imageTooLong
deriving DecidableEq, Repr

/-- The inputs before the first query: nothing decided, so every answer is a free value (log entry 1). -/
def Inputs.fresh : Inputs where
  clockNs := 0
  elapsed := []
  random := []
  keypad := []
  clockReads := 0
  randomReads := 0
  keyReads := 0

/-- `Reset` of the empty program image (70_reset_and_hazards.md rule R290, rule R291; log entry 14). -/
def State.reset : State where
  v := Vector.replicate 16 0#8
  i := 0#16
  pc := BitVec.ofNat 16 params.progBase
  sp := 0#8
  dt := 0#8
  st := 0#8
  accNs := 0
  tsRef := none
  halted := false
  faultHi := 0#8
  faultLo := 0#8
  mem := []
  grid := Grid.dark
  inputs := Inputs.fresh

end Sys2Proof.Machine
end

