-- ==== Sys2Proof/Machine/Ops.lean ====
section
/-! DEFINITION. The named operations every instruction is built from: the bus (20_memory.md), the registers (10_state.md),
the call stack (42_control_flow.md), the inputs (60_exceptions.md section 8), the fetch (40_step_cycle.md) and taking the
one exception of the machine (60_exceptions.md section 4). -/

namespace Sys2Proof.Machine

/-! ### The bus -/

/-- `trunc_12` of an address (rule R60). -/
def busAddr (a : Nat) : Nat := a % memSize

/-- `MemRead(a, 1)` (rule R9, rule R61). -/
def State.readByte (s : State) (a : Nat) : Byte := s.mem.read (busAddr a)

/-- `MemWrite(a, 1, b)` (rule R9, rule R62). -/
def State.writeByte (s : State) (a : Nat) (b : Byte) : State := { s with mem := s.mem.write (busAddr a) b }

/-- `MemRead(a, 2)`: big-endian, each byte address reduced on its own (rule R9). -/
def State.readWord (s : State) (a : Nat) : Word := s.readByte a ++ s.readByte (a + 1)

/-- `MemWrite(a, 2, w)`: high byte at `a`, then low byte at `a + 1` (rule R9). -/
def State.writeWord (s : State) (a : Nat) (w : Word) : State :=
  (s.writeByte a (w.extractLsb' 8 8)).writeByte (a + 1) (w.extractLsb' 0 8)

/-- The bytes `bs` at ascending addresses from `a` (44_index_memory_timer_ops.md rule R230). -/
def State.storeBytes (s : State) (a : Nat) : List Byte → State
  | [] => s
  | b :: bs => (s.writeByte a b).storeBytes (a + 1) bs

/-! ### Registers -/

/-- `V[x]` (rule R8, rule R20). -/
def State.getV (s : State) (x : Reg) : Byte := s.v[x.val]

/-- `V[x] <- b` (rule R8, rule R20). -/
def State.setV (s : State) (x : Reg) (b : Byte) : State := { s with v := s.v.set x.val b }

/-- The number of VF, general register 0xF (rule R26). -/
def regVF : Reg := 15

/-- The number of V0. -/
def regV0 : Reg := 0

/-- `V[j] <- MemRead(a + j, 1)` for `j` in 0 to `n - 1` (44_index_memory_timer_ops.md rule R225). -/
def State.loadRegBlock (s : State) (a : Nat) : Nat → State
  | 0 => s
  | n + 1 => (s.loadRegBlock a n).setV (Fin.ofNat 16 n) (s.readByte (a + n))

/-- `I <- w` (rule R36). -/
def State.setI (s : State) (w : Word) : State := { s with i := w }

/-- `PC <- w` (rule R8, rule R23). -/
def State.setPc (s : State) (w : Word) : State := { s with pc := w }

/-- `PC <- PC +16 2` (rule R24). -/
def State.advancePc (s : State) : State := s.setPc (s.pc + 2#16)

/-- A skip: `PC <- PC +16 2` when the condition holds, else nothing (42_control_flow.md rule R180). -/
def State.skipIf (s : State) (c : Bool) : State := if c then s.advancePc else s

/-- Result and flag of a flag-setting instruction, in the order `VF_ORDER` says: with `flagLast` the flag wins when
`x = 0xF` (41_alu.md rule R141, decision D11; log entry 8). -/
def State.setResultFlag (s : State) (x : Reg) (result : Byte) (flag : Bool) : State :=
  match params.vfOrder with
  | .flagLast => (s.setV x result).setV regVF (flagByte flag)
  | .resultLast => (s.setV regVF (flagByte flag)).setV x result

/-! ### The call stack -/

/-- The slot of a stack pointer value: `0x100 + 2*SP`, not truncated (20_memory.md rule R72, decision D8; log entry 7). -/
def slotAddr (sp : Byte) : Nat := params.stackBase + 2 * sp.toNat

/-- `Push(a)` (42_control_flow.md rule R170). -/
def State.push (s : State) (a : Word) : State :=
  let s1 := { s with sp := s.sp + 1#8 }
  s1.writeWord (slotAddr s1.sp) a

/-- The word `Pop()` returns (42_control_flow.md rule R171). -/
def State.topOfStack (s : State) : Word := s.readWord (slotAddr s.sp)

/-- The state `Pop()` leaves (42_control_flow.md rule R171). -/
def State.dropTop (s : State) : State := { s with sp := s.sp - 1#8 }

/-! ### The inputs (log entry 1) -/

/-- Nanoseconds from the last clock sample to the next. -/
def Inputs.nextElapsed (n : Inputs) : Nat := n.elapsed.head?.getD (Config.freeElapsed n.clockReads)

/-- Take the step's one clock sample (rule R264): `clockNs` is then the `now_ns` of the step. -/
def Inputs.sampleClock (n : Inputs) : Inputs :=
  { n with clockNs := n.clockNs + n.nextElapsed, elapsed := n.elapsed.tail, clockReads := n.clockReads + 1 }

/-- The answer of one query of the random source (rule R271). -/
def Inputs.nextRandom (n : Inputs) : Byte := n.random.head?.getD (Config.freeRandom n.randomReads)

/-- The inputs after that query. -/
def Inputs.queryRandom (n : Inputs) : Inputs :=
  { n with random := n.random.tail, randomReads := n.randomReads + 1 }

/-- `KeyDown(k)` at the next key query (rule R272). -/
def Inputs.nextKey (n : Inputs) (k : Fin 16) : Bool :=
  match n.keypad with
  | [] => Config.freeKey n.keyReads k
  | keys :: _ => keys[k.val]

/-- The inputs after that query. -/
def Inputs.queryKey (n : Inputs) : Inputs :=
  { n with keypad := n.keypad.tail, keyReads := n.keyReads + 1 }

/-- Sample the clock. -/
def State.sampleClock (s : State) : State := { s with inputs := s.inputs.sampleClock }

/-- The clock sample `now_ns` of the step under way (rule R11): the last one taken. -/
def State.nowNs (s : State) : Nat := s.inputs.clockNs

/-- `RandByte()` as a value (rule R11). -/
def State.randByte (s : State) : Byte := s.inputs.nextRandom

/-- The state after one random query. -/
def State.queryRandom (s : State) : State := { s with inputs := s.inputs.queryRandom }

/-- `KeyDown(k)` as a value (rule R11). -/
def State.keyDown (s : State) (k : Fin 16) : Bool := s.inputs.nextKey k

/-- The state after one key query. -/
def State.queryKey (s : State) : State := { s with inputs := s.inputs.queryKey }

/-! ### Fetch (40_step_cycle.md rule R123) -/

/-- `hi <- MemRead(PC, 1)`. -/
def State.fetchHi (s : State) : Byte := s.readByte s.pc.toNat

/-- `lo <- MemRead(PC + 1, 1)`. -/
def State.fetchLo (s : State) : Byte := s.readByte (s.pc.toNat + 1)

/-! ### The exception

There is one, and nothing returns from it: only a reset clears `halted` (60_exceptions.md rule R258). -/

/-- `raise UnknownOpcode(hi, lo)` (60_exceptions.md rule R256): record the two raw bytes and latch `halted`; nothing else. -/
def State.raiseUnknownOpcode (s : State) (hi lo : Byte) : State :=
  { s with faultHi := hi, faultLo := lo, halted := true }

end Sys2Proof.Machine
end

