-- ==== Sys2Proof/Machine/Flags.lean ====
section
/-! DEFINITION. Every flag computation of the machine (10_state.md rule R26, 41_alu.md): the flag is a value for VF. -/

namespace Sys2Proof.Machine

/-- Carry of an addition: the unwrapped 9-bit sum exceeds 255 (41_alu.md rule R148). -/
def carryOf (a b : Byte) : Bool := decide (255 < a.toNat + b.toNat)

/-- `a > b`, the flag of SUB for `a - b` and of SUBN for `b` and `a` swapped; 0 at the tie (rule R149, rule R151,
90_conflicts.md C1). -/
def greaterOf (a b : Byte) : Bool := decide (b.toNat < a.toNat)

/-- The bit a right shift moves out: bit 0 of the value before (rule R150). -/
def outOfShr (a : Byte) : Bool := a.getLsbD 0

/-- The bit a left shift moves out: bit 7 of the value before (rule R152). -/
def outOfShl (a : Byte) : Bool := a.getLsbD 7

/-- A pixel going from lit to unlit: the collision of one pixel (43_display.md rule R195). -/
def collides (old new : Bool) : Bool := old && !new

end Sys2Proof.Machine
end

