-- ==== Sys2Proof/Machine/Operands.lean ====
section
/-! DEFINITION. What an instruction's operand fields stand for: values, addresses, coordinates, key and digit numbers. -/

namespace Sys2Proof.Machine

/-- The address of element `j` of a transfer at `I` (44_index_memory_timer_ops.md rule R229); the bus reduces it. -/
def State.elemAddr (s : State) (j : Nat) : Nat := s.i.toNat + j

/-- The value 8xy6 and 8xyE shift (41_alu.md rule R150, decision D10; log entry 9). -/
def State.shiftOperand (s : State) (x y : Reg) : Byte :=
  match params.shiftSource with
  | .vx => s.getV x
  | .vy => s.getV y

/-- The digit Fx29 looks up (44_index_memory_timer_ops.md rule R222, decision D15; log entry 11). -/
def glyphDigit (b : Byte) : Nat :=
  match params.fontIndex with
  | .fullByte => b.toNat
  | .lowNibble => b.toNat % 16

/-- `FONT_BASE + 5 * digit` (44_index_memory_timer_ops.md rule R222). -/
def glyphAddr (b : Byte) : Word := BitVec.ofNat 16 (params.fontBase + params.glyphBytes * glyphDigit b)

/-- The key number: the low four bits of the register (45_random_input.md rule R243, decision D17; log entry 11). -/
def keyNumber (b : Byte) : Fin 16 := (b.extractLsb' 0 4).toFin

/-- The three decimal digits, hundreds first (44_index_memory_timer_ops.md rule R223, decision D16; log entry 11). -/
def bcdDigits (b : Byte) : List Byte :=
  [BitVec.ofNat 8 (b.toNat / 100), BitVec.ofNat 8 (b.toNat / 10 % 10), BitVec.ofNat 8 (b.toNat % 10)]

/-- `V[0]` to `V[x]` in order (44_index_memory_timer_ops.md rule R224). -/
def State.regBlock (s : State) (x : Reg) : List Byte := s.v.toList.take (x.val + 1)

/-- What Fx55 and Fx65 leave in `I`: unchanged, or advanced past the block under `LDST_MOVES_I`
(44_index_memory_timer_ops.md rule R229, decision D14; log entry 10). -/
def indexAfterBlock (i : Word) (x : Reg) : Word :=
  if params.ldstMovesI then i + BitVec.ofNat 16 (x.val + 1) else i

/-- The column of sprite bit `k` of a sprite at column value `b` (43_display.md rule R194): toroidal. -/
def spriteColumn (b : Byte) (k : Nat) : Fin 64 := Fin.ofNat 64 (b.toNat % 64 + k)

/-- The row of sprite row `j` of a sprite at row value `b` (43_display.md rule R194): toroidal. -/
def spriteRow (b : Byte) (j : Nat) : Fin 32 := Fin.ofNat 32 (b.toNat % 32 + j)

/-- Bit `k` of a sprite row, most significant first: `b[7 - k]` (43_display.md rule R195). -/
def spriteBit (b : Byte) (k : Nat) : Bool := b.getLsbD (7 - k)

end Sys2Proof.Machine
end

