-- ==== Sys2Proof/Machine/Display.lean ====
section
/-! DEFINITION. The Display & Fade Engine (43_display.md): pixel update, clear, sprite draw, decay tick, render output. -/

namespace Sys2Proof.Machine

/-- `f` on every element of a vector. -/
def mapVector {α β : Type} {n : Nat} (f : α → β) (v : Vector α n) : Vector β n :=
  ⟨(v.toList.map f).toArray, by simp⟩

/-- The pixel in row `r` and column `c` (rule R38). -/
def Grid.pixel (g : Grid) (r : Fin 32) (c : Fin 64) : Pixel := g[r.val][c.val]

/-- The grid with the pixel in row `r` and column `c` replaced. -/
def Grid.setAt (g : Grid) (r : Fin 32) (c : Fin 64) (p : Pixel) : Grid := g.set r.val (g[r.val].set c.val p)

/-- What `SetPixel` makes of a pixel (rule R192): lit is settled at once, lit to unlit starts a fade-out, unlit stays as it is. -/
def Pixel.update (p : Pixel) (new : Bool) : Pixel :=
  if new then { lit := true, phase := Phase.settled }
  else if p.lit then { lit := false, phase := 0 }
  else p

/-- `SetPixel(r, c, new)` (rule R192). -/
def Grid.setPixel (g : Grid) (r : Fin 32) (c : Fin 64) (new : Bool) : Grid := g.setAt r c ((g.pixel r c).update new)

/-- One target pixel of a sprite (rule R195): the grid and the collision flag so far, before and after. -/
def drawPixel (r : Fin 32) (c : Fin 64) (bit : Bool) (acc : Grid × Bool) : Grid × Bool :=
  let old := (acc.1.pixel r c).lit
  let new := old ^^ bit
  (acc.1.setPixel r c new, acc.2 || collides old new)

/-- One sprite row `b` into grid row `r`, from column value `vx` (rule R195): columns `k` in 0 to 7. -/
def drawRow (vx : Byte) (r : Fin 32) (b : Byte) (acc : Grid × Bool) : Grid × Bool :=
  (List.range 8).foldl (fun acc k => drawPixel r (spriteColumn vx k) (spriteBit b k) acc) acc

/-- The sprite rows `bytes` from column value `vx` and row value `vy` (rule R195), the flag cleared at the start. -/
def drawRows (vx vy : Byte) (bytes : List Byte) (g : Grid) : Grid × Bool :=
  bytes.zipIdx.foldl (fun acc bj => drawRow vx (spriteRow vy bj.2) bj.1 acc) (g, false)

/-- The `n` bytes of a sprite at `I` (rule R196). -/
def State.spriteBytes (s : State) (n : Nat) : List Byte := (List.range n).map (fun j => s.readByte (s.elemAddr j))

/-- Every pixel unlit with phase 0 (rule R190): not `SetPixel`, the phase of every pixel is set. -/
def State.clearGrid (s : State) : State := { s with grid := Grid.dark }

/-- The decay of one pixel: `phase <- min(1, phase + 1/10)` when below 1 (rule R199, rule R200; log entry 5). -/
def Pixel.decay (p : Pixel) : Pixel :=
  if p.phase < Phase.settled then { p with phase := Fin.ofNat 11 (min 10 (p.phase.val + 1)) } else p

/-- `DecayTick()` on the grid (rule R199). -/
def Grid.decay (g : Grid) : Grid := mapVector (mapVector Pixel.decay) g

/-- `DecayTick()`, action (a) of every step. -/
def State.decayTick (s : State) : State := { s with grid := s.grid.decay }

/-! ### Render output -/

/-- The luma byte (rule R202, decision D6; log entry 5). -/
def Pixel.luma (p : Pixel) : Byte := if p.lit || decide (p.phase < Phase.settled) then 0xFF#8 else 0x00#8

/-- `sat8(floor(k/10 * 256))` (rule R203, decision D6; log entry 5). -/
def opacityOfTenths (k : Nat) : Byte := BitVec.ofNat 8 (min 255 (k * 256 / 10))

/-- The opacity byte (rule R203). -/
def Pixel.opacity (p : Pixel) : Byte :=
  if p.phase = Phase.settled then 0xFF#8
  else if p.lit then opacityOfTenths p.phase.val
  else opacityOfTenths (10 - p.phase.val)

/-- The 4-byte group of a pixel: luma, luma, luma, opacity (rule R201). -/
def Pixel.render (p : Pixel) : List Byte := [p.luma, p.luma, p.luma, p.opacity]

/-- `render_frame()` (rule R201, rule R205): 8192 bytes, row-major; a function of the state that changes nothing. -/
def renderFrame (s : State) : List Byte := s.grid.toList.flatMap (fun row => row.toList.flatMap Pixel.render)

end Sys2Proof.Machine
end

