-- ==== Sys2Proof/Machine/Timers.lean ====
section
/-! DEFINITION. The Timer Subsystem (60_exceptions.md section 7). -/

namespace Sys2Proof.Machine

/-- How many timer ticks an accumulator value gives in one step (rule R265, decision D20; log entry 13). -/
def timerTicks (acc : Nat) : Nat :=
  match params.timerCatchup with
  | .single => if params.timerPeriodNs ≤ acc then 1 else 0
  | .loop => acc / params.timerPeriodNs

/-- A timer after `n` ticks, floored at zero (rule R266). -/
def countDown (n : Nat) (t : Byte) : Byte := BitVec.ofNat 8 (t.toNat - n)

/-- The state after `acc` nanoseconds have accumulated: each tick takes one period and counts both timers down (rule R265). -/
def State.runTimers (s : State) (acc : Nat) : State :=
  { s with
    accNs := acc - timerTicks acc * params.timerPeriodNs
    dt := countDown (timerTicks acc) s.dt
    st := countDown (timerTicks acc) s.st }

/-- `TimerUpdate(now_ns)`, action (b) of every step (rule R265): nothing on the first step after a reset (rule R267).
A reference ahead of the clock, which no run reaches, counts as no time elapsed (log entry 20). -/
def State.timerUpdate (s : State) (now : Nat) : State :=
  match s.tsRef with
  | some t => s.runTimers (s.accNs + (now - t))
  | none => s

/-- `tone = (ST != 0)`, the derived sound output (rule R274). -/
def tone (s : State) : Bool := s.st != 0#8

end Sys2Proof.Machine
end

