-- ==== Sys2Proof/Machine/Cycle.lean ====
section
/-! DEFINITION. The parts of a step that belong to no instruction (40_step_cycle.md rule R120). -/

namespace Sys2Proof.Machine

/-- Actions (a) and (b): the decay tick, then the timer update from the step's one clock sample (rule R120, rule R127). -/
def State.bookkeep (s : State) : State :=
  let s1 := s.decayTick.sampleClock
  s1.timerUpdate s1.nowNs

/-- Action (e): `ts_ref <- some(now_ns)`, the sample action (b) used (rule R127). -/
def State.refreshRef (s : State) : State := { s with tsRef := some s.nowNs }

/-- Action (e) after the instruction: not performed when the step stopped (rule R128). -/
def endStep : Host.Outcome State Fault Refusal → Host.Outcome State Fault Refusal
  | .next s => .next s.refreshRef
  | .fault r => .fault r
  | .refused r => .refused r

end Sys2Proof.Machine
end

