-- ==== Sys2Proof/Machine/Alu.lean ====
section
/-! DEFINITION. Register load, arithmetic, logic and shift instructions (41_alu.md). -/

namespace Sys2Proof.Machine

/-- LD Vx, kk (rule R142). -/
def execLdImm (x : Reg) (kk : Byte) (s : State) : Host.Outcome State Fault Refusal := .next (s.setV x kk)

/-- ADD Vx, kk: no flag (rule R143, decision D13; log entry 10). -/
def execAddImm (x : Reg) (kk : Byte) (s : State) : Host.Outcome State Fault Refusal := .next (s.setV x (s.getV x + kk))

/-- LD Vx, Vy (rule R144). -/
def execLdReg (x y : Reg) (s : State) : Host.Outcome State Fault Refusal := .next (s.setV x (s.getV y))

/-- OR Vx, Vy: no flag (rule R145). -/
def execOr (x y : Reg) (s : State) : Host.Outcome State Fault Refusal := .next (s.setV x (s.getV x ||| s.getV y))

/-- AND Vx, Vy: no flag (rule R146). -/
def execAnd (x y : Reg) (s : State) : Host.Outcome State Fault Refusal := .next (s.setV x (s.getV x &&& s.getV y))

/-- XOR Vx, Vy: no flag (rule R147). -/
def execXor (x y : Reg) (s : State) : Host.Outcome State Fault Refusal := .next (s.setV x (s.getV x ^^^ s.getV y))

/-- ADD Vx, Vy: sum modulo 256, then VF = carry (rule R148). -/
def execAdd (x y : Reg) (s : State) : Host.Outcome State Fault Refusal :=
  .next (s.setResultFlag x (s.getV x + s.getV y) (carryOf (s.getV x) (s.getV y)))

/-- SUB Vx, Vy: `V[x] - V[y]`, then VF = (V[x] > V[y]) (rule R149). -/
def execSub (x y : Reg) (s : State) : Host.Outcome State Fault Refusal :=
  .next (s.setResultFlag x (s.getV x - s.getV y) (greaterOf (s.getV x) (s.getV y)))

/-- SHR Vx: logical shift right by 1, then VF = bit 0 before (rule R150). -/
def execShr (x y : Reg) (s : State) : Host.Outcome State Fault Refusal :=
  .next (s.setResultFlag x (s.shiftOperand x y >>> 1) (outOfShr (s.shiftOperand x y)))

/-- SUBN Vx, Vy: `V[y] - V[x]`, then VF = (V[y] > V[x]) (rule R151). -/
def execSubn (x y : Reg) (s : State) : Host.Outcome State Fault Refusal :=
  .next (s.setResultFlag x (s.getV y - s.getV x) (greaterOf (s.getV y) (s.getV x)))

/-- SHL Vx: logical shift left by 1, then VF = bit 7 before (rule R152). -/
def execShl (x y : Reg) (s : State) : Host.Outcome State Fault Refusal :=
  .next (s.setResultFlag x (s.shiftOperand x y <<< 1) (outOfShl (s.shiftOperand x y)))

end Sys2Proof.Machine
end

