-- ==== Sys2Proof/Machine/Control.lean ====
section
/-! DEFINITION. Jumps, calls, returns and the register skips (42_control_flow.md).

On entry `PC` already holds the address of the following instruction (40_step_cycle.md rule R123). -/

namespace Sys2Proof.Machine

/-- RET (rule R173): all 16 bits of the popped word. -/
def execRet (s : State) : Host.Outcome State Fault Refusal := .next (s.dropTop.setPc s.topOfStack)

/-- JP nnn (rule R174). -/
def execJp (nnn : Addr12) (s : State) : Host.Outcome State Fault Refusal := .next (s.setPc (zext12 nnn))

/-- CALL nnn (rule R172, decision D9; log entry 7): pushes the already advanced `PC`. -/
def execCall (nnn : Addr12) (s : State) : Host.Outcome State Fault Refusal := .next ((s.push s.pc).setPc (zext12 nnn))

/-- JP V0, nnn (rule R175): 16-bit sum. -/
def execJpV0 (nnn : Addr12) (s : State) : Host.Outcome State Fault Refusal :=
  .next (s.setPc (zext12 nnn + zext8 (s.getV regV0)))

/-- SE Vx, kk (rule R176). -/
def execSeImm (x : Reg) (kk : Byte) (s : State) : Host.Outcome State Fault Refusal := .next (s.skipIf (s.getV x == kk))

/-- SNE Vx, kk (rule R177). -/
def execSneImm (x : Reg) (kk : Byte) (s : State) : Host.Outcome State Fault Refusal := .next (s.skipIf (s.getV x != kk))

/-- SE Vx, Vy (rule R178). -/
def execSeReg (x y : Reg) (s : State) : Host.Outcome State Fault Refusal := .next (s.skipIf (s.getV x == s.getV y))

/-- SNE Vx, Vy (rule R179). -/
def execSneReg (x y : Reg) (s : State) : Host.Outcome State Fault Refusal := .next (s.skipIf (s.getV x != s.getV y))

end Sys2Proof.Machine
end

