-- ==== Sys2Proof/Machine/IndexMem.lean ====
section
/-! DEFINITION. Index register, memory transfer and timer-register instructions (44_index_memory_timer_ops.md). -/

namespace Sys2Proof.Machine

/-- LD I, nnn (rule R220). -/
def execLdI (nnn : Addr12) (s : State) : Host.Outcome State Fault Refusal := .next (s.setI (zext12 nnn))

/-- ADD I, Vx: modulo 65536, no flag (rule R221, decision D13; log entry 10). -/
def execAddI (x : Reg) (s : State) : Host.Outcome State Fault Refusal := .next (s.setI (s.i + zext8 (s.getV x)))

/-- LD F, Vx (rule R222). -/
def execLdF (x : Reg) (s : State) : Host.Outcome State Fault Refusal := .next (s.setI (glyphAddr (s.getV x)))

/-- LD B, Vx: three decimal digits at `I`, `I + 1`, `I + 2` (rule R223). -/
def execLdB (x : Reg) (s : State) : Host.Outcome State Fault Refusal :=
  .next (s.storeBytes (s.elemAddr 0) (bcdDigits (s.getV x)))

/-- LD [I], Vx: `V[0]` to `V[x]` at `I` to `I + x` (rule R224). -/
def execStoreRegs (x : Reg) (s : State) : Host.Outcome State Fault Refusal :=
  .next ((s.storeBytes (s.elemAddr 0) (s.regBlock x)).setI (indexAfterBlock s.i x))

/-- LD Vx, [I]: `V[0]` to `V[x]` from `I` to `I + x` (rule R225). -/
def execLoadRegs (x : Reg) (s : State) : Host.Outcome State Fault Refusal :=
  .next ((s.loadRegBlock (s.elemAddr 0) (x.val + 1)).setI (indexAfterBlock s.i x))

/-- LD Vx, DT (rule R226). -/
def execLdVxDt (x : Reg) (s : State) : Host.Outcome State Fault Refusal := .next (s.setV x s.dt)

/-- LD DT, Vx (rule R227): `acc_ns` and `ts_ref` are not touched (decision D22; log entry 13). -/
def execLdDtVx (x : Reg) (s : State) : Host.Outcome State Fault Refusal := .next { s with dt := s.getV x }

/-- LD ST, Vx (rule R228): `acc_ns` and `ts_ref` are not touched (decision D22; log entry 13). -/
def execLdStVx (x : Reg) (s : State) : Host.Outcome State Fault Refusal := .next { s with st := s.getV x }

end Sys2Proof.Machine
end

