-- ==== Sys2Proof/Machine/Input.lean ====
section
/-! DEFINITION. The random and keypad instructions (45_random_input.md). Each makes exactly one query (rule R244,
decision D30; log entry 21). -/

namespace Sys2Proof.Machine

/-- RND Vx, kk (rule R240): one random query, whatever `kk` is. -/
def execRnd (x : Reg) (kk : Byte) (s : State) : Host.Outcome State Fault Refusal :=
  .next (s.queryRandom.setV x (s.randByte &&& kk))

/-- SKP Vx (rule R241): one key query, for the key of `V[x]` only. -/
def execSkp (x : Reg) (s : State) : Host.Outcome State Fault Refusal :=
  .next (s.queryKey.skipIf (s.keyDown (keyNumber (s.getV x))))

/-- SKNP Vx (rule R242): one key query, for the key of `V[x]` only. -/
def execSknp (x : Reg) (s : State) : Host.Outcome State Fault Refusal :=
  .next (s.queryKey.skipIf (!s.keyDown (keyNumber (s.getV x))))

end Sys2Proof.Machine
end

