-- ==== Sys2Proof/Machine/Video.lean ====
section
/-! DEFINITION. The display instructions (43_display.md). -/

namespace Sys2Proof.Machine

/-- CLS (rule R190). -/
def execCls (s : State) : Host.Outcome State Fault Refusal := .next s.clearGrid

/-- HRCLS (rule R191, decision D3; log entry 6): over the grid's actual 64 by 32 cells, exactly as CLS. -/
def execHrcls (s : State) : Host.Outcome State Fault Refusal := .next s.clearGrid

/-- DRW Vx, Vy, n (rule R195): both coordinates and the sprite are read before VF is written (decision D12; log entry 8). -/
def execDrw (x y : Reg) (n : Nat) (s : State) : Host.Outcome State Fault Refusal :=
  let drawn := drawRows (s.getV x) (s.getV y) (s.spriteBytes n) s.grid
  .next ({ s with grid := drawn.1 }.setV regVF (flagByte drawn.2))

end Sys2Proof.Machine
end

