-- ==== Sys2Proof/Machine/Step.lean ====
section
/-! DEFINITION. The one transition of the machine (40_step_cycle.md rule R120). -/

namespace Sys2Proof.Machine

/-- One step: actions (a) to (e) in their order, for the inputs the state carries. A word that selects no row raises
`UnknownOpcode` in place of (d), after which (e) is not performed (rule R128); a halted core has no step (rule R121). -/
def step (s : State) : Host.Outcome State Fault Refusal :=
  if s.halted then .fault (.halted s.faultHi s.faultLo)
  else
    match decode s.bookkeep.fetchHi s.bookkeep.fetchLo with
    | .ok i => endStep (exec i s.bookkeep.advancePc)
    | .error (.unknownOpcode hi lo) => .next (s.bookkeep.advancePc.raiseUnknownOpcode hi lo)

/-- The state with the table word `w` of `nbits` bits where the next step fetches: its two bytes at `PC` and `PC + 1` by the
bus (rule R123). Nothing else changes; on a halted core there is still no step (log entry 18). -/
def State.withFetchWord (s : State) (nbits w : Nat) : State :=
  (s.writeByte s.pc.toNat (tableBytes nbits w).1).writeByte (s.pc.toNat + 1) (tableBytes nbits w).2

end Sys2Proof.Machine
end

