-- ==== Sys2Proof/Machine/HostOps.lean ====
section
/-! DEFINITION. The operations the host can invoke between steps, `step` apart (60_exceptions.md rule R275, rule R279).

They are functions on the state, not steps of the core (log entry 16). `render_frame` is `renderFrame` of
`Machine/Display.lean`, `tone` is in `Machine/Timers.lean`. -/

namespace Sys2Proof.Machine

/-- Memory with 0x200 to 0xFFF holding `bytes` followed by zeros (70_reset_and_hazards.md rule R298). -/
def State.loadImage (s : State) (bytes : List Byte) : State :=
  { s with mem := s.mem.zeroProgram }.storeBytes params.progBase bytes

/-- The boot state `Reset(rom)` (rule R290), with the host's inputs as they are. -/
def State.boot (rom : List Byte) (inputs : Inputs) : State :=
  { State.reset with inputs := inputs }.loadImage rom

/-- `reset()` with the image the loader holds (rule R290, rule R292): any state, halted or not, becomes the boot state; the
host's clock and its answers go on. An image over `ROM_MAX` is never presented (U14). -/
def hostReset (rom : List Byte) (s : State) : Host.Outcome State Fault Refusal :=
  if rom.length ≤ params.romMax then .next (State.boot rom s.inputs) else .refused .imageTooLong

/-- `load_program(bytes)` (rule R298, decision D25; log entry 15): 0x200 to 0xFFF replaced, nothing else. -/
def hostLoad (bytes : List Byte) (s : State) : Host.Outcome State Fault Refusal :=
  if bytes.length ≤ params.romMax then .next (s.loadImage bytes) else .refused .imageTooLong

/-- `unload_program()` (rule R299, decision D26; log entry 15): 0x200 to 0xFFF zeroed, nothing else. -/
def hostUnload (s : State) : Host.Outcome State Fault Refusal := .next (s.loadImage [])

/-- The fault report the host can read (rule R275): the two bytes when halted. -/
def faultReport (s : State) : Option (Byte × Byte) := if s.halted then some (s.faultHi, s.faultLo) else none

end Sys2Proof.Machine
end

