-- ==== Sys2Proof/Safety.lean ====
section
/-! DEFINITION. The terms claims are stated in: the pieces of the state a frame speaks of, and the invariants of the machine. -/

namespace Sys2Proof.Safety

open Sys2Proof.Machine

/-- Every piece of the state, by name: the closed list of 10_state.md section 1, memory byte by byte and the display pixel
by pixel, and the three inputs of the host. -/
inductive Piece where
  | v (x : Reg)
  | i
  | pc
  | sp
  | dt
  | st
  | accNs
  | tsRef
  | halted
  | faultHi
  | faultLo
  | mem (a : Fin 4096)
  | lit (r : Fin 32) (c : Fin 64)
  | phase (r : Fin 32) (c : Fin 64)
  | clock
  | random
  | keypad
deriving DecidableEq, Repr

/-- The piece `p` is in `t` what it is in `s`; memory through the read of one byte. -/
def Piece.same (p : Piece) (s t : State) : Prop :=
  match p with
  | .v x => t.getV x = s.getV x
  | .i => t.i = s.i
  | .pc => t.pc = s.pc
  | .sp => t.sp = s.sp
  | .dt => t.dt = s.dt
  | .st => t.st = s.st
  | .accNs => t.accNs = s.accNs
  | .tsRef => t.tsRef = s.tsRef
  | .halted => t.halted = s.halted
  | .faultHi => t.faultHi = s.faultHi
  | .faultLo => t.faultLo = s.faultLo
  | .mem a => t.readByte a.val = s.readByte a.val
  | .lit r c => (t.grid.pixel r c).lit = (s.grid.pixel r c).lit
  | .phase r c => (t.grid.pixel r c).phase = (s.grid.pixel r c).phase
  | .clock =>
    t.inputs.clockNs = s.inputs.clockNs ∧ t.inputs.elapsed = s.inputs.elapsed ∧ t.inputs.clockReads = s.inputs.clockReads
  | .random => t.inputs.random = s.inputs.random ∧ t.inputs.randomReads = s.inputs.randomReads
  | .keypad => t.inputs.keypad = s.inputs.keypad ∧ t.inputs.keyReads = s.inputs.keyReads

/-- The frame: from `s` to `t` nothing has changed but pieces that `may` allows. -/
def OnlyChanges (may : Piece → Prop) (s t : State) : Prop := ∀ p, ¬ may p → p.same s t

/-- Memory is in its one canonical form. -/
def MemCanonical (s : State) : Prop := s.mem.wf

/-- 10_state.md rule R40: a lit pixel has phase 1. -/
def LitSettled (s : State) : Prop := ∀ r c, (s.grid.pixel r c).lit = true → (s.grid.pixel r c).phase = Phase.settled

/-- 10_state.md rule R31: the fault bytes are 0x00 while the core runs, and a word that selects no row when it has halted. -/
def ReportTrue (s : State) : Prop :=
  (s.halted = false → s.faultHi = 0#8 ∧ s.faultLo = 0#8) ∧
  (s.halted = true → decode s.faultHi s.faultLo = .error (.unknownOpcode s.faultHi s.faultLo))

/-- 60_exceptions.md rule R264: the reference timestamp is never ahead of the host's clock. -/
def ClockAhead (s : State) : Prop := ∀ t, s.tsRef = some t → t ≤ s.inputs.clockNs

/-- All of them: what every step keeps. -/
def Sound (s : State) : Prop := MemCanonical s ∧ LitSettled s ∧ ReportTrue s ∧ ClockAhead s

end Sys2Proof.Safety
end

