-- ==== Sys2Proof/Certificates/Slice0/Obligations.lean ====
section
/-! DEFINITION. The statements for the provers, from the numbered rules of the spec.

A frame is written `OnlyChanges may s t`: every piece of the state that `may` does not allow is in `t` what it is in `s`
(`Sys2Proof/Safety.lean`), every register, flag, pixel and byte of memory among them. -/

open Sys2Proof Sys2Proof.Machine Sys2Proof.Safety

/-! ### Encoding -/

/-- Every well-formed instruction is what its own two bytes decode to (30_encoding.md sections 2 and 3; the bit patterns are
the spec's decision D1 and D2, log entry 4). -/
def Obligations.DecodeEncodeRoundTrip : Prop :=
  ∀ i : Instr, i.wellFormed = true → decode (encodeHi i) (encodeLo i) = .ok i

/-- The other direction: two bytes that decode are the bytes of the instruction they decode to, and it is well formed: no bit
of an instruction word is dropped, the ignored `y` of 8xy6 and 8xyE among them. -/
def Obligations.EncodeDecodeRoundTrip : Prop :=
  ∀ (hi lo : Byte) (i : Instr), decode hi lo = .ok i → i.wellFormed = true ∧ encodeHi i = hi ∧ encodeLo i = lo

/-- 40_step_cycle.md rule R124: the fields are read off the two bytes, and each word selects exactly one row or none. -/
def Obligations.DecodeSelectsOneRowOrNone : Prop :=
  ∀ hi lo : Byte,
    fieldN0 (hi ++ lo) = hi.extractLsb' 4 4 ∧
    (fieldX (hi ++ lo)).val = (hi.extractLsb' 0 4).toNat ∧
    (fieldY (hi ++ lo)).val = (lo.extractLsb' 4 4).toNat ∧
    fieldN (hi ++ lo) = (lo.extractLsb' 0 4).toNat ∧
    fieldNNN (hi ++ lo) = hi.extractLsb' 0 4 ++ lo ∧
    fieldKK (hi ++ lo) = lo ∧
    ((∃ r ∈ opcodeRows, r.matches (hi ++ lo) = true ∧ decode hi lo = .ok (r.build (hi ++ lo)) ∧
        ∀ q ∈ opcodeRows, q.matches (hi ++ lo) = true → q = r) ∨
     ((∀ q ∈ opcodeRows, q.matches (hi ++ lo) = false) ∧ decode hi lo = .error (.unknownOpcode hi lo)))

/-- 30_encoding.md section 4: the words that select no row, by their nibbles (decisions D18 and D19, log entry 4). -/
def Obligations.UnmatchedWordsByNibble : Prop :=
  ∀ hi lo : Byte,
    let n0 := hi.toNat / 16
    let n3 := lo.toNat % 16
    decode hi lo = .error (.unknownOpcode hi lo) ↔
      (n0 = 0 ∧ ¬(hi = 0x00#8 ∧ lo = 0xE0#8) ∧ ¬(hi = 0x00#8 ∧ lo = 0xEE#8) ∧ ¬(hi = 0x02#8 ∧ lo = 0x30#8)) ∨
      (n0 = 5 ∧ n3 ≠ 0) ∨
      (n0 = 8 ∧ (n3 = 8 ∨ n3 = 9 ∨ n3 = 10 ∨ n3 = 11 ∨ n3 = 12 ∨ n3 = 13 ∨ n3 = 15)) ∨
      (n0 = 9 ∧ n3 ≠ 0) ∨
      (n0 = 14 ∧ lo ≠ 0x9E#8 ∧ lo ≠ 0xA1#8) ∨
      (n0 = 15 ∧ lo ≠ 0x07#8 ∧ lo ≠ 0x15#8 ∧ lo ≠ 0x18#8 ∧ lo ≠ 0x1E#8 ∧ lo ≠ 0x29#8 ∧ lo ≠ 0x33#8 ∧ lo ≠ 0x55#8 ∧
        lo ≠ 0x65#8)

/-- Sanity: words written out from 30_encoding.md and 95_test_vectors.md section 2.1 (log entry 4). -/
def Obligations.WrittenOutWordsDecode : Prop :=
  decode 0xD7#8 0xA3#8 = .ok (.drw 7 10 3) ∧ decode 0x12#8 0x00#8 = .ok (.jp 0x200#12) ∧
  decode 0x8A#8 0xBE#8 = .ok (.shl 10 11) ∧ decode 0xF5#8 0x65#8 = .ok (.loadRegs 5) ∧
  decode 0xE0#8 0xA1#8 = .ok (.sknp 0) ∧ decode 0x5A#8 0xB0#8 = .ok (.seReg 10 11)

/-! ### The step -/

/-- A step runs the decoded instruction (40_step_cycle.md sections 1 to 5): the five actions in their order. Decay tick, timer
update with the step's clock sample, fetch of the two bytes at `PC` (read before `PC` advances), then the decoded instruction
on the state so prepared, then the same sample into `ts_ref` (one sample: decision D21, log entry 13); or, where the bytes
decode to nothing, the fault in place of the instruction and no refresh (decision D27, log entry 17). -/
def Obligations.StepRunsDecodedInstruction : Prop :=
  ∀ s : State, s.halted = false →
    let now := s.inputs.clockNs + s.inputs.nextElapsed
    let ready := ((s.decayTick.sampleClock.timerUpdate now).setPc (s.pc + 2#16))
    let hi := s.readByte s.pc.toNat
    let lo := s.readByte (s.pc.toNat + 1)
    (∀ i, decode hi lo = .ok i → ∃ t, exec i ready = .next t ∧ step s = .next { t with tsRef := some now }) ∧
    (∀ r, decode hi lo = .error r → step s = .next (ready.raiseUnknownOpcode hi lo))

/-- A step answers a next state exactly when the core is not halted, and a halted core's stop carries the fault report
(40_step_cycle.md section 1, decision D27, log entry 17). -/
def Obligations.StepAnswersExactlyWhenRunning : Prop :=
  ∀ s : State, ((∃ t, step s = .next t) ↔ s.halted = false) ∧
    (s.halted = true → step s = .fault (.halted s.faultHi s.faultLo))

/-- The unknown-opcode fault (60_exceptions.md sections 1 and 4, decision D27, log entry 17): the two raw bytes recorded, the
latch set, `PC` past the word, actions (a) and (b) done, `ts_ref` not refreshed, nothing else changed by the word. -/
def Obligations.UnknownOpcodeLatchesReport : Prop :=
  ∀ s : State, s.halted = false →
    (∀ i, decode (s.readByte s.pc.toNat) (s.readByte (s.pc.toNat + 1)) ≠ .ok i) →
    ∃ t, step s = .next t ∧ t.halted = true ∧
      t.faultHi = s.readByte s.pc.toNat ∧ t.faultLo = s.readByte (s.pc.toNat + 1) ∧
      t.pc - 2#16 = s.pc ∧ t.tsRef = s.tsRef ∧
      OnlyChanges (fun p => p = .pc ∨ p = .halted ∨ p = .faultHi ∨ p = .faultLo) s.bookkeep t ∧
      OnlyChanges (fun p => p = .pc ∨ p = .halted ∨ p = .faultHi ∨ p = .faultLo ∨ p = .dt ∨ p = .st ∨ p = .accNs ∨
        p = .clock ∨ ∃ r c, p = .phase r c) s t

/-- The one cause of the fault (60_exceptions.md section 1): a step of a running core halts it exactly when the fetched word
selects no row of the opcode map; no matched instruction raises anything, and none touches the fault report, the accumulator,
the reference timestamp or the clock. That the fault is a latch `halted` with two bytes is the spec's decision D27 (log entry
17), and that Fx15 and Fx18 leave the accumulator and the reference alone is D22 (log entry 13). -/
def Obligations.OnlyUnmatchedWordsRaise : Prop :=
  (∀ s : State, s.halted = false → ∃ t, step s = .next t ∧
    (t.halted = true ↔
      ∀ q ∈ opcodeRows, q.matches (s.readByte s.pc.toNat ++ s.readByte (s.pc.toNat + 1)) = false)) ∧
  (∀ (i : Instr) (s : State), ∃ t, exec i s = .next t ∧ t.halted = s.halted ∧ t.faultHi = s.faultHi ∧
    t.faultLo = s.faultLo ∧ t.accNs = s.accNs ∧ t.tsRef = s.tsRef ∧ Piece.clock.same s t)

/-! ### Decay and render -/

/-- The decay tick (43_display.md section 4, decisions D4 and D5, log entry 5): every pixel below 1 gains one tenth, up to 1;
`lit` and everything else is unchanged; and a dark pixel of phase 0 has phase `min 10 k` tenths after `k` ticks. -/
def Obligations.DecayTickRaisesUnsettledPhases : Prop :=
  ∀ s : State,
    (∀ r c, ((s.decayTick.grid.pixel r c).phase).val =
      if (s.grid.pixel r c).phase.val < 10 then (s.grid.pixel r c).phase.val + 1 else (s.grid.pixel r c).phase.val) ∧
    OnlyChanges (fun p => ∃ r c, p = .phase r c) s s.decayTick ∧
    (∀ r c k, (s.grid.pixel r c).phase.val = 0 → (((State.decayTick^[k] s).grid.pixel r c).phase).val = min 10 k)

/-- The complete render table (43_display.md section 5, decisions D5 and D6, log entry 5): the group of a pixel `k` ticks after
it went dark, and of a lit settled pixel. -/
def Obligations.FadeRenderTable : Prop :=
  (∀ k : Nat, (Pixel.decay^[k] Pixel.dark).render =
    if k < 10 then
      [0xFF#8, 0xFF#8, 0xFF#8, BitVec.ofNat 8 ([255, 230, 204, 179, 153, 128, 102, 76, 51, 25].getD k 0)]
    else [0x00#8, 0x00#8, 0x00#8, 0xFF#8]) ∧
  (∀ k : Nat, (Pixel.decay^[k] { lit := true, phase := Phase.settled }).render = [0xFF#8, 0xFF#8, 0xFF#8, 0xFF#8])

/-- 43_display.md rule R201: 8192 bytes, the group of pixel (r, c) at `4*(64*r + c)`, luma three times, then opacity. -/
def Obligations.RenderFrameIsRowMajor : Prop :=
  ∀ s : State, (renderFrame s).length = 8192 ∧
    ∀ (r : Fin 32) (c : Fin 64),
      (renderFrame s)[4 * (64 * r.val + c.val)]? = some (s.grid.pixel r c).luma ∧
      (renderFrame s)[4 * (64 * r.val + c.val) + 1]? = some (s.grid.pixel r c).luma ∧
      (renderFrame s)[4 * (64 * r.val + c.val) + 2]? = some (s.grid.pixel r c).luma ∧
      (renderFrame s)[4 * (64 * r.val + c.val) + 3]? = some (s.grid.pixel r c).opacity

/-- 43_display.md rule R192: `SetPixel` by its three cases, and no other pixel. -/
def Obligations.SetPixelFadeSemantics : Prop :=
  ∀ (g : Grid) (r : Fin 32) (c : Fin 64) (new : Bool),
    ((g.setPixel r c new).pixel r c).lit = new ∧
    (new = true → ((g.setPixel r c new).pixel r c).phase = Phase.settled) ∧
    (new = false → (g.pixel r c).lit = true → ((g.setPixel r c new).pixel r c).phase = 0) ∧
    (new = false → (g.pixel r c).lit = false → ((g.setPixel r c new).pixel r c).phase = (g.pixel r c).phase) ∧
    (∀ r' c', (r', c') ≠ (r, c) → (g.setPixel r c new).pixel r' c' = g.pixel r' c')

/-! ### Timers -/

/-- The timer update (60_exceptions.md section 7, decision D20, log entry 13), for a clock that has not gone back: nothing
without a reference; else the elapsed time accumulates and one whole period, if there is one, is turned into one tick. -/
def Obligations.TimerUpdateCountsOnePeriod : Prop :=
  ∀ (s : State) (now : Nat),
    (s.tsRef = none → s.timerUpdate now = s) ∧
    (∀ t, s.tsRef = some t → t ≤ now →
      let acc := s.accNs + (now - t)
      (acc < 16666666 → (s.timerUpdate now).accNs = acc ∧ (s.timerUpdate now).dt = s.dt ∧ (s.timerUpdate now).st = s.st) ∧
      (16666666 ≤ acc → (s.timerUpdate now).accNs + 16666666 = acc ∧
        (s.timerUpdate now).dt.toNat = s.dt.toNat - 1 ∧ (s.timerUpdate now).st.toNat = s.st.toNat - 1)) ∧
    OnlyChanges (fun p => p = .accNs ∨ p = .dt ∨ p = .st) s (s.timerUpdate now)

/-- 60_exceptions.md rule R266: a timer at 0 stays at 0, and in one tick the two timers are decremented independently: what
happens to one does not depend on the other. -/
def Obligations.TimersFlooredIndependently : Prop :=
  ∀ (s : State) (now : Nat) (d e : Byte),
    (s.dt = 0#8 → (s.timerUpdate now).dt = 0#8) ∧
    (s.st = 0#8 → (s.timerUpdate now).st = 0#8) ∧
    (s.timerUpdate now).dt = (({ s with st := e } : State).timerUpdate now).dt ∧
    (s.timerUpdate now).st = (({ s with dt := d } : State).timerUpdate now).st

/-- The first step after a reset (60_exceptions.md section 7), whatever word it fetches, neither accumulates nor decrements; its
action (e) then sets `ts_ref` to the step's clock sample. Three of its clauses are the spec's decisions: what a faulting step
leaves, which has no action (e), is D27 (log entry 17); that Fx15 and Fx18 leave the accumulator alone is D22 and that the
step's one clock sample is the one stored is D21 (log entry 13). -/
def Obligations.FirstStepDecrementsNothing : Prop :=
  ∀ s t : State, s.halted = false → s.tsRef = none → step s = .next t →
    let word := decode (s.readByte s.pc.toNat) (s.readByte (s.pc.toNat + 1))
    t.accNs = s.accNs ∧ (t.halted = false → t.tsRef = some t.inputs.clockNs) ∧
    ((∀ x, word ≠ .ok (.ldDtVx x)) → t.dt = s.dt) ∧ ((∀ x, word ≠ .ok (.ldStVx x)) → t.st = s.st) ∧
    (∀ x, word = .ok (.ldDtVx x) → t.dt = s.getV x) ∧ (∀ x, word = .ok (.ldStVx x) → t.st = s.getV x)

/-- The timer cadence (60_exceptions.md section 7, the source's property): over any number of updates with increments below one
period, the ticks are the whole periods that have passed, the remainder stays in the accumulator, and each timer has gone down
by the ticks, never below 0. `u` is the state after the update of each increment in turn, the reference refreshed after each.
A start with a whole period already accumulated is left out, as the source's property leaves it out. That a step makes one
tick at most is decision D20 (log entry 13). -/
def Obligations.TimerCadence : Prop :=
  ∀ (es : List Nat) (s : State) (t : Nat), s.tsRef = some t → s.accNs < 16666666 → (∀ e ∈ es, e < 16666666) →
    let u := es.foldl (fun (a : State × Nat) e => ({ a.1.timerUpdate (a.2 + e) with tsRef := some (a.2 + e) }, a.2 + e)) (s, t)
    u.1.accNs = (s.accNs + es.sum) % 16666666 ∧
    u.1.dt.toNat = s.dt.toNat - (s.accNs + es.sum) / 16666666 ∧
    u.1.st.toNat = s.st.toNat - (s.accNs + es.sum) / 16666666

/-! ### Register load, arithmetic, logic, shifts -/

/-- 41_alu.md rule R142 and rule R144: the two loads of a general register, VF among the destinations, no flag. -/
def Obligations.RegisterLoads : Prop :=
  ∀ (s : State) (x y : Reg) (kk : Byte),
    (∃ t, exec (.ldImm x kk) s = .next t ∧ t.getV x = kk ∧ OnlyChanges (fun p => p = .v x) s t) ∧
    (∃ t, exec (.ldReg x y) s = .next t ∧ t.getV x = s.getV y ∧ OnlyChanges (fun p => p = .v x) s t)

/-- 41_alu.md rule R145, rule R146, rule R147: bit by bit, and no register but the destination: no flag side effect. -/
def Obligations.BitwiseInstructions : Prop :=
  ∀ (s : State) (x y : Reg),
    (∃ t, exec (.orReg x y) s = .next t ∧
      (∀ k, (t.getV x).getLsbD k = ((s.getV x).getLsbD k || (s.getV y).getLsbD k)) ∧ OnlyChanges (fun p => p = .v x) s t) ∧
    (∃ t, exec (.andReg x y) s = .next t ∧
      (∀ k, (t.getV x).getLsbD k = ((s.getV x).getLsbD k && (s.getV y).getLsbD k)) ∧ OnlyChanges (fun p => p = .v x) s t) ∧
    (∃ t, exec (.xorReg x y) s = .next t ∧
      (∀ k, (t.getV x).getLsbD k = ((s.getV x).getLsbD k ^^ (s.getV y).getLsbD k)) ∧ OnlyChanges (fun p => p = .v x) s t)

/-- The two additions of general registers (41_alu.md sections 2 and 4): modulo 256; ADD Vx, kk records no carry (decision D13,
log entry 10); ADD Vx, Vy leaves the carry in VF, and with `x = 0xF` the flag is what VF holds (decisions D11 and D12, log
entry 8). -/
def Obligations.AdditionsWrapAndCarry : Prop :=
  ∀ (s : State) (x y : Reg) (kk : Byte),
    (∃ t, exec (.addImm x kk) s = .next t ∧
      (t.getV x).toNat = ((s.getV x).toNat + kk.toNat) % 256 ∧ OnlyChanges (fun p => p = .v x) s t) ∧
    (∃ t, exec (.addReg x y) s = .next t ∧
      (x ≠ regVF → (t.getV x).toNat = ((s.getV x).toNat + (s.getV y).toNat) % 256) ∧
      (t.getV regVF).toNat = (if 255 < (s.getV x).toNat + (s.getV y).toNat then 1 else 0) ∧
      OnlyChanges (fun p => p = .v x ∨ p = .v regVF) s t)

/-- SUB and SUBN (41_alu.md section 4, 90_conflicts.md C1): the wrapped difference, and VF = 1 exactly when the minuend is
strictly greater: 0 at the tie; with `x = 0xF` the flag wins (decisions D11 and D12, log entry 8). -/
def Obligations.SubtractionsSetStrictlyGreater : Prop :=
  ∀ (s : State) (x y : Reg),
    (∃ t, exec (.subReg x y) s = .next t ∧
      (x ≠ regVF → (t.getV x).toNat = ((s.getV x).toNat + 256 - (s.getV y).toNat) % 256) ∧
      (t.getV regVF).toNat = (if (s.getV y).toNat < (s.getV x).toNat then 1 else 0) ∧
      OnlyChanges (fun p => p = .v x ∨ p = .v regVF) s t) ∧
    (∃ t, exec (.subnReg x y) s = .next t ∧
      (x ≠ regVF → (t.getV x).toNat = ((s.getV y).toNat + 256 - (s.getV x).toNat) % 256) ∧
      (t.getV regVF).toNat = (if (s.getV x).toNat < (s.getV y).toNat then 1 else 0) ∧
      OnlyChanges (fun p => p = .v x ∨ p = .v regVF) s t)

/-- SHR and SHL (41_alu.md section 4): `V[x]` in place by one bit, `y` ignored, VF = the bit shifted out; with `x = 0xF` the
flag wins (decisions D10 and D11, log entries 8 and 9). -/
def Obligations.ShiftsMoveOneBitOut : Prop :=
  ∀ (s : State) (x y : Reg),
    (∃ t, exec (.shr x y) s = .next t ∧
      (x ≠ regVF → (t.getV x).toNat = (s.getV x).toNat / 2) ∧ (t.getV regVF).toNat = (s.getV x).toNat % 2 ∧
      OnlyChanges (fun p => p = .v x ∨ p = .v regVF) s t) ∧
    (∃ t, exec (.shl x y) s = .next t ∧
      (x ≠ regVF → (t.getV x).toNat = 2 * (s.getV x).toNat % 256) ∧ (t.getV regVF).toNat = (s.getV x).toNat / 128 ∧
      OnlyChanges (fun p => p = .v x ∨ p = .v regVF) s t)

/-! ### Jumps, calls, returns, skips -/

/-- 42_control_flow.md rule R174: any of the 4096 targets, odd ones included, zero-extended into the 16-bit `PC`. -/
def Obligations.JumpLoadsTarget : Prop :=
  ∀ (s : State) (nnn : Addr12), ∃ t, exec (.jp nnn) s = .next t ∧ t.pc.toNat = nnn.toNat ∧
    OnlyChanges (fun p => p = .pc) s t

/-- JP V0, nnn (42_control_flow.md section 3): the 16-bit sum with V0, up to 0x10FE and never wrapping (that it is V0 is the
spec's general knowledge, log entry 4). -/
def Obligations.JumpV0AddsOffset : Prop :=
  ∀ (s : State) (nnn : Addr12), ∃ t, exec (.jpV0 nnn) s = .next t ∧
    t.pc.toNat = nnn.toNat + (s.getV 0).toNat ∧ t.pc.toNat ≤ 0x10FE ∧ OnlyChanges (fun p => p = .pc) s t

/-- CALL nnn (42_control_flow.md sections 1 and 2, decisions D8 and D9, log entry 7): `SP` up by one, wrapping; the advanced
`PC` big-endian in the slot of the new `SP`; the target in `PC`; every byte outside the slot as before. -/
def Obligations.CallPushesReturnAddress : Prop :=
  ∀ (s : State) (nnn : Addr12), ∃ t, exec (.call nnn) s = .next t ∧
    t.sp.toNat = (s.sp.toNat + 1) % 256 ∧ t.pc.toNat = nnn.toNat ∧
    slotAddr t.sp = 0x100 + 2 * t.sp.toNat ∧
    (t.readByte (slotAddr t.sp)).toNat = s.pc.toNat / 256 ∧ (t.readByte (slotAddr t.sp + 1)).toNat = s.pc.toNat % 256 ∧
    OnlyChanges (fun p => p = .sp ∨ p = .pc ∨
      ∃ a : Fin 4096, p = .mem a ∧ (a.val = slotAddr (s.sp + 1#8) ∨ a.val = slotAddr (s.sp + 1#8) + 1)) s t

/-- RET (42_control_flow.md sections 1 and 2, decisions D8 and D9, log entry 7): all 16 bits of the word in the slot of `SP`,
high byte first, into `PC`; `SP` down by one, wrapping; no byte of memory changes. -/
def Obligations.ReturnPopsSlot : Prop :=
  ∀ s : State, ∃ t, exec .ret s = .next t ∧
    t.pc.toNat = 256 * (s.readByte (0x100 + 2 * s.sp.toNat)).toNat + (s.readByte (0x101 + 2 * s.sp.toNat)).toNat ∧
    t.sp.toNat = (s.sp.toNat + 255) % 256 ∧ OnlyChanges (fun p => p = .sp ∨ p = .pc) s t

/-- Push then pop (42_control_flow.md section 1): from any state that has the callee's `SP` and the two bytes of its slot, a
RET restores the caller's `PC` and `SP`, whatever `SP` was, wraps included (the condition on the two bytes is the spec's own
inference). -/
def Obligations.ReturnUndoesCall : Prop :=
  ∀ (s t u : State) (nnn : Addr12), exec (.call nnn) s = .next t → u.sp = t.sp →
    u.readByte (slotAddr t.sp) = t.readByte (slotAddr t.sp) →
    u.readByte (slotAddr t.sp + 1) = t.readByte (slotAddr t.sp + 1) →
    ∃ w, exec .ret u = .next w ∧ w.pc = s.pc ∧ w.sp = s.sp

/-- The stack aliases instead of overflowing (42_control_flow.md section 1, 90_conflicts.md C2, log entry 7): push number `n`
of a run that starts with `SP` = 0 leaves `SP` = n mod 256 and its word at `0x100 + 2*(n mod 256)`; the 128th is the first at
0x200, the 256th is at 0x100, and no other byte but the slots' changes. -/
def Obligations.StackWrapsSilently : Prop :=
  ∀ (n : Nat) (s : State) (w : Word), s.sp = 0#8 → 0 < n →
    let t := (fun u : State => u.push w)^[n] s
    t.sp.toNat = n % 256 ∧ t.readWord (0x100 + 2 * (n % 256)) = w ∧
    OnlyChanges (fun p => p = .sp ∨ ∃ a : Fin 4096, p = .mem a ∧ 0x100 ≤ a.val ∧ a.val ≤ 0x2FF) s t

/-- 42_control_flow.md rule R176 and rule R177: the skips on an immediate. -/
def Obligations.SkipsOnImmediate : Prop :=
  ∀ (s : State) (x : Reg) (kk : Byte),
    (∃ t, exec (.seImm x kk) s = .next t ∧ t.pc = (if s.getV x = kk then s.pc + 2#16 else s.pc) ∧
      OnlyChanges (fun p => p = .pc) s t) ∧
    (∃ t, exec (.sneImm x kk) s = .next t ∧ t.pc = (if s.getV x = kk then s.pc else s.pc + 2#16) ∧
      OnlyChanges (fun p => p = .pc) s t)

/-- SE Vx, Vy and SNE Vx, Vy (42_control_flow.md section 4; the skipped length is the spec's general knowledge). -/
def Obligations.SkipsOnRegister : Prop :=
  ∀ (s : State) (x y : Reg),
    (∃ t, exec (.seReg x y) s = .next t ∧ t.pc = (if s.getV x = s.getV y then s.pc + 2#16 else s.pc) ∧
      OnlyChanges (fun p => p = .pc) s t) ∧
    (∃ t, exec (.sneReg x y) s = .next t ∧ t.pc = (if s.getV x = s.getV y then s.pc else s.pc + 2#16) ∧
      OnlyChanges (fun p => p = .pc) s t)

/-! ### Random and keypad -/

/-- 45_random_input.md rule R240: one query of the random source whatever `kk` is, and the answer masked; for every answer. -/
def Obligations.RandomByteIsMasked : Prop :=
  ∀ (s : State) (x : Reg) (kk : Byte), ∃ t, exec (.rnd x kk) s = .next t ∧
    t.getV x = (s.randByte &&& kk) ∧ t.inputs.randomReads = s.inputs.randomReads + 1 ∧
    (∀ r rs, s.inputs.random = r :: rs → t.getV x = (r &&& kk) ∧ t.inputs.random = rs) ∧
    (kk = 0x00#8 → t.getV x = 0x00#8) ∧ (kk = 0xFF#8 → t.getV x = s.randByte) ∧
    OnlyChanges (fun p => p = .v x ∨ p = .random) s t

/-- SKP and SKNP (45_random_input.md): one key query for the key `V[x] mod 16` (decision D17, log entry 11); the skip when it
is down, or up. -/
def Obligations.SkipsOnKey : Prop :=
  ∀ (s : State) (x : Reg) (k : Fin 16), k.val = (s.getV x).toNat % 16 →
    (∃ t, exec (.skp x) s = .next t ∧ t.pc = (if s.keyDown k = true then s.pc + 2#16 else s.pc) ∧
      t.inputs.keyReads = s.inputs.keyReads + 1 ∧ OnlyChanges (fun p => p = .pc ∨ p = .keypad) s t) ∧
    (∃ t, exec (.sknp x) s = .next t ∧ t.pc = (if s.keyDown k = true then s.pc else s.pc + 2#16) ∧
      t.inputs.keyReads = s.inputs.keyReads + 1 ∧ OnlyChanges (fun p => p = .pc ∨ p = .keypad) s t)

/-- The query count (45_random_input.md, the spec's own inference and decision D30): only RND queries the random source and
only SKP and SKNP the keypad, each exactly once. -/
def Obligations.QueriesPerInstruction : Prop :=
  ∀ (i : Instr) (s t : State), exec i s = .next t →
    t.inputs.randomReads = s.inputs.randomReads + (if ∃ x kk, i = .rnd x kk then 1 else 0) ∧
    t.inputs.keyReads = s.inputs.keyReads + (if ∃ x, i = .skp x ∨ i = .sknp x then 1 else 0) ∧
    ((∀ x kk, i ≠ .rnd x kk) → Piece.random.same s t) ∧
    ((∀ x, i ≠ .skp x ∧ i ≠ .sknp x) → Piece.keypad.same s t)

/-! ### Display instructions -/

/-- 43_display.md rule R190: every pixel unlit with phase 0, nothing else, VF not written. -/
def Obligations.ClearScreen : Prop :=
  ∀ s : State, ∃ t, exec .cls s = .next t ∧
    (∀ r c, (t.grid.pixel r c).lit = false ∧ (t.grid.pixel r c).phase = 0) ∧
    OnlyChanges (fun p => ∃ r c, p = .lit r c ∨ p = .phase r c) s t

/-- HRCLS (43_display.md section 2): over the grid's actual cells, exactly the effect of CLS (decision D3, log entry 6). -/
def Obligations.HighResClearActsAsClear : Prop :=
  ∀ s : State, exec .hrcls s = exec .cls s ∧ ∃ t, exec .hrcls s = .next t ∧
    (∀ r c, (t.grid.pixel r c).lit = false ∧ (t.grid.pixel r c).phase = 0) ∧
    OnlyChanges (fun p => ∃ r c, p = .lit r c ∨ p = .phase r c) s t

/-- DRW (43_display.md section 3, decisions D12 and D18, log entry 8): the pixel-by-pixel meaning the two loops come to. A
pixel at offset `(j, k)` from the wrapped origin with `j < n` and `k < 8` takes its old value XOR bit `7 - k` of the byte at
`I + j`, with the fade semantics of `SetPixel`; every other pixel is as it was; the flag is 0 or 1; nothing else changes. -/
def Obligations.DrawSpritePixels : Prop :=
  ∀ (s : State) (x y : Reg) (n : Nat), n < 16 → ∃ t, exec (.drw x y n) s = .next t ∧
    (∀ (r : Fin 32) (c : Fin 64),
      let j := (r.val + 32 - (s.getV y).toNat % 32) % 32
      let k := (c.val + 64 - (s.getV x).toNat % 64) % 64
      let old := s.grid.pixel r c
      let new := old.lit ^^ (s.readByte (s.i.toNat + j)).getLsbD (7 - k)
      t.grid.pixel r c =
        if j < n ∧ k < 8 then
          if new then { lit := true, phase := Phase.settled }
          else if old.lit then { lit := false, phase := 0 } else old
        else old) ∧
    (t.getV regVF = 0x00#8 ∨ t.getV regVF = 0x01#8) ∧
    OnlyChanges (fun p => p = .v regVF ∨ ∃ r c, p = .lit r c ∨ p = .phase r c) s t

/-- The collision flag of DRW (43_display.md section 3): 1 exactly when some set sprite bit falls on a pixel that was lit;
with `n = 0` it is 0 (decision D18). -/
def Obligations.DrawCollisionFlag : Prop :=
  ∀ (s : State) (x y : Reg) (n : Nat), n < 16 → ∃ t, exec (.drw x y n) s = .next t ∧
    (t.getV regVF = 0x01#8 ↔
      ∃ (j k : Nat) (r : Fin 32) (c : Fin 64), j < n ∧ k < 8 ∧ r.val = ((s.getV y).toNat % 32 + j) % 32 ∧
        c.val = ((s.getV x).toNat % 64 + k) % 64 ∧ (s.readByte (s.i.toNat + j)).getLsbD (7 - k) = true ∧
        (s.grid.pixel r c).lit = true) ∧
    (n = 0 → t.getV regVF = 0x00#8)

/-- Drawing the same sprite twice at the same place (43_display.md section 3). The `lit` values return to what they were; the
second draw's flag is 1 exactly when some set sprite bit's pixel was lit after the first draw, so with any set bit at all when
the target pixels were unlit; a touched pixel that was unlit and settled ends unlit with phase 0. The place is the same when
the two coordinates are: that shuts out no register, only a VF coordinate the first draw's own flag has moved. With `x` or `y`
= 0xF it rests on the coordinates being read before VF is written, the spec's decision D12 (log entry 8). -/
def Obligations.DoubleDrawRestoresLit : Prop :=
  ∀ (s t : State) (x y : Reg) (n : Nat), n < 16 → exec (.drw x y n) s = .next t → t.getV x = s.getV x → t.getV y = s.getV y →
    ∃ u, exec (.drw x y n) t = .next u ∧
      (∀ r c, (u.grid.pixel r c).lit = (s.grid.pixel r c).lit) ∧
      (u.getV regVF = 0x01#8 ↔ ∃ j k, j < n ∧ k < 8 ∧ (s.readByte (s.i.toNat + j)).getLsbD (7 - k) = true ∧
        (t.grid.pixel (spriteRow (s.getV y) j) (spriteColumn (s.getV x) k)).lit = true) ∧
      ((∀ j k, j < n → k < 8 → (s.grid.pixel (spriteRow (s.getV y) j) (spriteColumn (s.getV x) k)).lit = false) →
        (u.getV regVF = 0x01#8 ↔ ∃ j k, j < n ∧ k < 8 ∧ (s.readByte (s.i.toNat + j)).getLsbD (7 - k) = true)) ∧
      (∀ j k, j < n → k < 8 → (s.readByte (s.i.toNat + j)).getLsbD (7 - k) = true →
        (s.grid.pixel (spriteRow (s.getV y) j) (spriteColumn (s.getV x) k)).lit = false →
        (u.grid.pixel (spriteRow (s.getV y) j) (spriteColumn (s.getV x) k)).phase = 0)

/-! ### Index register, memory transfer, timer registers -/

/-- 44_index_memory_timer_ops.md rule R220. -/
def Obligations.LoadIndexImmediate : Prop :=
  ∀ (s : State) (nnn : Addr12), ∃ t, exec (.ldI nnn) s = .next t ∧ t.i.toNat = nnn.toNat ∧
    OnlyChanges (fun p => p = .i) s t

/-- ADD I, Vx and LD F, Vx (44_index_memory_timer_ops.md section 2): modulo 65536 and no flag (decision D13, log entry 10);
five times the whole byte (decision D15, log entry 11). -/
def Obligations.IndexAddAndGlyphLookup : Prop :=
  ∀ (s : State) (x : Reg),
    (∃ t, exec (.addI x) s = .next t ∧ t.i.toNat = (s.i.toNat + (s.getV x).toNat) % 65536 ∧
      OnlyChanges (fun p => p = .i) s t) ∧
    (∃ t, exec (.ldF x) s = .next t ∧ t.i.toNat = 5 * (s.getV x).toNat ∧ OnlyChanges (fun p => p = .i) s t)

/-- LD B, Vx (44_index_memory_timer_ops.md section 3): hundreds, tens, ones at `I`, `I + 1`, `I + 2` modulo 4096 (decision D16,
log entry 11); every other byte as before, `I` unchanged. -/
def Obligations.DecimalDigitsStored : Prop :=
  ∀ (s : State) (x : Reg), ∃ t, exec (.ldB x) s = .next t ∧
    (t.readByte (s.elemAddr 0)).toNat = (s.getV x).toNat / 100 ∧
    (t.readByte (s.elemAddr 1)).toNat = (s.getV x).toNat / 10 % 10 ∧
    (t.readByte (s.elemAddr 2)).toNat = (s.getV x).toNat % 10 ∧
    OnlyChanges (fun p => ∃ (j : Nat) (a : Fin 4096), j < 3 ∧ p = .mem a ∧ a.val = busAddr (s.elemAddr j)) s t

/-- LD [I], Vx (44_index_memory_timer_ops.md section 3): `V[0]` to `V[x]`, `V[x]` included, at `I` to `I + x` modulo 4096; every
other byte as before, `I` unchanged (decision D14, log entry 10). -/
def Obligations.RegisterBlockStored : Prop :=
  ∀ (s : State) (x : Reg), ∃ t, exec (.storeRegs x) s = .next t ∧
    (∀ j : Reg, j.val ≤ x.val → t.readByte (s.elemAddr j.val) = s.getV j) ∧
    OnlyChanges (fun p => ∃ (j : Nat) (a : Fin 4096), j ≤ x.val ∧ p = .mem a ∧ a.val = busAddr (s.elemAddr j)) s t

/-- LD Vx, [I] (44_index_memory_timer_ops.md section 3): `V[0]` to `V[x]` from `I` to `I + x` modulo 4096; the registers above
`x` and all of memory as before, `I` unchanged (decision D14, log entry 10). -/
def Obligations.RegisterBlockLoaded : Prop :=
  ∀ (s : State) (x : Reg), ∃ t, exec (.loadRegs x) s = .next t ∧
    (∀ j : Reg, j.val ≤ x.val → t.getV j = s.readByte (s.elemAddr j.val)) ∧
    OnlyChanges (fun p => ∃ j : Reg, j.val ≤ x.val ∧ p = .v j) s t

/-- A block stored and loaded back (44_index_memory_timer_ops.md section 3): from any state that has the index and the memory
the store left, the load gives `V[0]` to `V[x]` the values stored. It rests on the store leaving `I` as it is, the spec's decision D14 with
`LDST_MOVES_I` = false (log entry 10): under the other value the load would read past the block. -/
def Obligations.LoadUndoesStore : Prop :=
  ∀ (s t u : State) (x : Reg), exec (.storeRegs x) s = .next t → u.i = t.i → (∀ a, u.readByte a = t.readByte a) →
    ∃ w, exec (.loadRegs x) u = .next w ∧ (∀ j : Reg, j.val ≤ x.val → w.getV j = s.getV j) ∧
      (∀ j : Reg, x.val < j.val → w.getV j = u.getV j)

/-- 44_index_memory_timer_ops.md rule R226. -/
def Obligations.DelayTimerRead : Prop :=
  ∀ (s : State) (x : Reg), ∃ t, exec (.ldVxDt x) s = .next t ∧ t.getV x = s.dt ∧ OnlyChanges (fun p => p = .v x) s t

/-- LD DT, Vx and LD ST, Vx (44_index_memory_timer_ops.md section 4): the timer and nothing else, so the accumulator and the
reference are untouched (decision D22, log entry 13). -/
def Obligations.TimerWrites : Prop :=
  ∀ (s : State) (x : Reg),
    (∃ t, exec (.ldDtVx x) s = .next t ∧ t.dt = s.getV x ∧ OnlyChanges (fun p => p = .dt) s t) ∧
    (∃ t, exec (.ldStVx x) s = .next t ∧ t.st = s.getV x ∧ OnlyChanges (fun p => p = .st) s t)

/-! ### Memory -/

/-- 20_memory.md rule R62: a write at any address sets the one byte at the address reduced to 12 bits, and changes nothing
else. -/
def Obligations.WriteSetsOneByte : Prop :=
  ∀ (s : State) (a : Nat) (b : Byte),
    (s.writeByte a b).readByte (a % 4096) = b ∧
    (∀ k, k % 4096 ≠ a % 4096 → (s.writeByte a b).readByte k = s.readByte k) ∧
    OnlyChanges (fun p => ∃ k : Fin 4096, p = .mem k ∧ k.val = a % 4096) s (s.writeByte a b)

/-- 00_scope.md rule R9, 20_memory.md section 3: a 2-byte access at any address, odd ones and 0xFFF included, is its two
byte accesses, high byte at the lower address; a word written is the word read. -/
def Obligations.WordAccessIsTwoBytes : Prop :=
  ∀ (s : State) (a : Nat) (w : Word),
    (s.readWord a).toNat = 256 * (s.readByte (a % 4096)).toNat + (s.readByte ((a + 1) % 4096)).toNat ∧
    ((s.writeWord a w).readByte (a % 4096)).toNat = w.toNat / 256 ∧
    ((s.writeWord a w).readByte ((a + 1) % 4096)).toNat = w.toNat % 256 ∧
    (s.writeWord a w).readWord a = w ∧
    OnlyChanges (fun p => ∃ k : Fin 4096, p = .mem k ∧ (k.val = a % 4096 ∨ k.val = (a + 1) % 4096)) s (s.writeWord a w)

/-! ### Who writes what: rules about the whole machine, over all instructions -/

/-- 10_state.md sections 3, 5 and 6: `SP` is written by CALL and RET only, `I` by Annn, Fx1E, Fx29 only, `DT` by Fx15 only, `ST` by
Fx18 only (the timer tick is no instruction), and `PC` by the control transfers and the skips only (under
`LDST_MOVES_I` = false, log entry 10). -/
def Obligations.SpecialRegisterWriters : Prop :=
  ∀ (i : Instr) (s t : State), exec i s = .next t →
    (t.sp ≠ s.sp → i = .ret ∨ ∃ a, i = .call a) ∧
    (t.i ≠ s.i → (∃ a, i = .ldI a) ∨ ∃ x, i = .addI x ∨ i = .ldF x) ∧
    (t.dt ≠ s.dt → ∃ x, i = .ldDtVx x) ∧
    (t.st ≠ s.st → ∃ x, i = .ldStVx x) ∧
    (t.pc ≠ s.pc → i = .ret ∨ (∃ a, i = .jp a ∨ i = .call a ∨ i = .jpV0 a) ∨
      (∃ x kk, i = .seImm x kk ∨ i = .sneImm x kk) ∨ (∃ x y, i = .seReg x y ∨ i = .sneReg x y) ∨
      ∃ x, i = .skp x ∨ i = .sknp x)

/-- 20_memory.md section 4, 43_display.md: memory is written by CALL, Fx33 and Fx55 only; `lit` and `phase` by CLS, HRCLS and
DRW only (the decay tick is no instruction). -/
def Obligations.MemoryAndDisplayWriters : Prop :=
  ∀ (i : Instr) (s t : State), exec i s = .next t →
    ((∃ a, t.readByte a ≠ s.readByte a) → (∃ a, i = .call a) ∨ ∃ x, i = .ldB x ∨ i = .storeRegs x) ∧
    ((∃ r c, t.grid.pixel r c ≠ s.grid.pixel r c) → i = .cls ∨ i = .hrcls ∨ ∃ x y n, i = .drw x y n)

/-- 10_state.md section 4: VF changes only as a flag (8xy4, 8xy5, 8xy6, 8xy7, 8xyE, Dxyn: then it is 0 or 1) or as the
instruction's own destination; no other instruction touches it. That VF is 0 or 1 after 8xy4 to 8xyE with `x` = 0xF is the
spec's decision D11, `VF_ORDER` = `flag_last` (log entry 8), and that 7xkk and Fx1E record no carry in VF is D13 (log entry
10). -/
def Obligations.FlagRegisterWriters : Prop :=
  ∀ (i : Instr) (s t : State), exec i s = .next t → t.getV regVF ≠ s.getV regVF →
    ((∃ x y, i = .addReg x y ∨ i = .subReg x y ∨ i = .shr x y ∨ i = .subnReg x y ∨ i = .shl x y ∨ ∃ n, i = .drw x y n) ∧
      (t.getV regVF = 0x00#8 ∨ t.getV regVF = 0x01#8)) ∨
    (∃ kk, i = .ldImm regVF kk ∨ i = .addImm regVF kk ∨ i = .rnd regVF kk) ∨
    (∃ y, i = .ldReg regVF y ∨ i = .orReg regVF y ∨ i = .andReg regVF y ∨ i = .xorReg regVF y) ∨
    i = .ldVxDt regVF ∨ i = .loadRegs regVF

/-! ### Invariants that every step keeps, from any state -/

/-- Every step keeps memory in its one canonical form (the model's own invariant, log entry 3). -/
def Obligations.StepKeepsMemoryCanonical : Prop := ∀ s t : State, MemCanonical s → step s = .next t → MemCanonical t

/-- Every step keeps a lit pixel settled (10_state.md section 7, the spec's own inference). -/
def Obligations.StepKeepsLitSettled : Prop := ∀ s t : State, LitSettled s → step s = .next t → LitSettled t

/-- Every step keeps the fault report true: zero while running, a word that selects no row once halted (10_state.md section 5,
decision D27, log entry 17). -/
def Obligations.StepKeepsReportTrue : Prop := ∀ s t : State, ReportTrue s → step s = .next t → ReportTrue t

/-- Every step keeps the reference timestamp at or behind the clock (60_exceptions.md section 7; the clock is monotone by the
model's choice of input, log entry 2). -/
def Obligations.StepKeepsClockAhead : Prop := ∀ s t : State, ClockAhead s → step s = .next t → ClockAhead t

/-- The boot state of any image the loader presents, and the state after a load or an unload, meet all the invariants
(70_reset_and_hazards.md, log entries 14 and 15). -/
def Obligations.HostOperationsKeepSound : Prop :=
  Sound State.reset ∧
  ∀ (s t : State) (bytes : List Byte),
    (hostReset bytes s = .next t → Sound t) ∧ (Sound s → hostLoad bytes s = .next t → Sound t) ∧
    (Sound s → hostUnload s = .next t → Sound t)

/-! ### Noninterference -/

/-- No program-visible state depends on the phases (70_reset_and_hazards.md section 3): two running states that differ in phases
alone step to states that differ in phases alone. -/
def Obligations.PhasesAreInvisible : Prop :=
  ∀ s t : State, OnlyChanges (fun p => ∃ r c, p = .phase r c) s t → s.halted = false →
    ∃ s' t', step s = .next s' ∧ step t = .next t' ∧ OnlyChanges (fun p => ∃ r c, p = .phase r c) s' t'

/-- Bits 15:12 of `I` are never observable by a program (10_state.md section 6, the spec's own inference): two running states
that differ in `I` alone, and there only above the bus's 12 bits, step to states that differ no more. -/
def Obligations.IndexHighBitsAreInvisible : Prop :=
  ∀ s t : State, OnlyChanges (fun p => p = .i) s t → t.i.toNat % 4096 = s.i.toNat % 4096 → s.halted = false →
    ∃ s' t', step s = .next s' ∧ step t = .next t' ∧ OnlyChanges (fun p => p = .i) s' t' ∧
      t'.i.toNat % 4096 = s'.i.toNat % 4096

/-! ### Reset and the host's operations -/

/-- The boot state `Reset(rom)` (70_reset_and_hazards.md section 1, decisions D23 and D24, log entries 12 and 14), from any
state, halted or not: every register, timer, bookkeeping field, pixel and byte of memory. -/
def Obligations.ResetGivesBootState : Prop :=
  ∀ (s : State) (rom : List Byte), rom.length ≤ 2048 → ∃ t, hostReset rom s = .next t ∧
    (∀ x, t.getV x = 0#8) ∧ t.i = 0#16 ∧ t.pc = 0x0200#16 ∧ t.sp = 0#8 ∧ t.dt = 0#8 ∧ t.st = 0#8 ∧ t.accNs = 0 ∧
    t.tsRef = none ∧ t.halted = false ∧ t.faultHi = 0#8 ∧ t.faultLo = 0#8 ∧
    (∀ a, a < 80 → t.readByte a = font.getD a 0#8) ∧
    (∀ a, 80 ≤ a → a < 0x200 → t.readByte a = 0#8) ∧
    (∀ a, 0x200 ≤ a → a < 4096 → t.readByte a = rom.getD (a - 0x200) 0#8) ∧
    (∀ r c, (t.grid.pixel r c).lit = false ∧ (t.grid.pixel r c).phase = 0)

/-- `load_program` and `unload_program` (70_reset_and_hazards.md section 2, decisions D25 and D26, log entry 15): 0x200 to 0xFFF
holds the image then zeros, or zeros; nothing else changes; a longer image is not taken. -/
def Obligations.LoadReplacesProgramRegion : Prop :=
  ∀ (s : State) (bytes : List Byte),
    (bytes.length ≤ 2048 → ∃ t, hostLoad bytes s = .next t ∧
      (∀ a, 0x200 ≤ a → a < 4096 → t.readByte a = bytes.getD (a - 0x200) 0#8) ∧
      OnlyChanges (fun p => ∃ a : Fin 4096, p = .mem a ∧ 0x200 ≤ a.val) s t) ∧
    (2048 < bytes.length → hostLoad bytes s = .refused .imageTooLong) ∧
    (∃ t, hostUnload s = .next t ∧ (∀ a, 0x200 ≤ a → a < 4096 → t.readByte a = 0#8) ∧
      OnlyChanges (fun p => ∃ a : Fin 4096, p = .mem a ∧ 0x200 ≤ a.val) s t)
end

