-- ==== Sys2Proof/Laws/State.lean ====
section
/-! SUPPORT. What each update of the state leaves in each field: one lemma per field per update, true by rfl. -/

namespace Sys2Proof.Machine

variable (s : State)

@[simp] theorem State.setV_v (x : Reg) (b : Byte) : (s.setV x b).v = s.v.set x.val b := rfl
@[simp] theorem State.setV_i (x : Reg) (b : Byte) : (s.setV x b).i = s.i := rfl
@[simp] theorem State.setV_pc (x : Reg) (b : Byte) : (s.setV x b).pc = s.pc := rfl
@[simp] theorem State.setV_sp (x : Reg) (b : Byte) : (s.setV x b).sp = s.sp := rfl
@[simp] theorem State.setV_dt (x : Reg) (b : Byte) : (s.setV x b).dt = s.dt := rfl
@[simp] theorem State.setV_st (x : Reg) (b : Byte) : (s.setV x b).st = s.st := rfl
@[simp] theorem State.setV_accNs (x : Reg) (b : Byte) : (s.setV x b).accNs = s.accNs := rfl
@[simp] theorem State.setV_tsRef (x : Reg) (b : Byte) : (s.setV x b).tsRef = s.tsRef := rfl
@[simp] theorem State.setV_halted (x : Reg) (b : Byte) : (s.setV x b).halted = s.halted := rfl
@[simp] theorem State.setV_faultHi (x : Reg) (b : Byte) : (s.setV x b).faultHi = s.faultHi := rfl
@[simp] theorem State.setV_faultLo (x : Reg) (b : Byte) : (s.setV x b).faultLo = s.faultLo := rfl
@[simp] theorem State.setV_mem (x : Reg) (b : Byte) : (s.setV x b).mem = s.mem := rfl
@[simp] theorem State.setV_grid (x : Reg) (b : Byte) : (s.setV x b).grid = s.grid := rfl
@[simp] theorem State.setV_inputs (x : Reg) (b : Byte) : (s.setV x b).inputs = s.inputs := rfl

@[simp] theorem State.setI_v (w : Word) : (s.setI w).v = s.v := rfl
@[simp] theorem State.setI_i (w : Word) : (s.setI w).i = w := rfl
@[simp] theorem State.setI_pc (w : Word) : (s.setI w).pc = s.pc := rfl
@[simp] theorem State.setI_sp (w : Word) : (s.setI w).sp = s.sp := rfl
@[simp] theorem State.setI_dt (w : Word) : (s.setI w).dt = s.dt := rfl
@[simp] theorem State.setI_st (w : Word) : (s.setI w).st = s.st := rfl
@[simp] theorem State.setI_accNs (w : Word) : (s.setI w).accNs = s.accNs := rfl
@[simp] theorem State.setI_tsRef (w : Word) : (s.setI w).tsRef = s.tsRef := rfl
@[simp] theorem State.setI_halted (w : Word) : (s.setI w).halted = s.halted := rfl
@[simp] theorem State.setI_faultHi (w : Word) : (s.setI w).faultHi = s.faultHi := rfl
@[simp] theorem State.setI_faultLo (w : Word) : (s.setI w).faultLo = s.faultLo := rfl
@[simp] theorem State.setI_mem (w : Word) : (s.setI w).mem = s.mem := rfl
@[simp] theorem State.setI_grid (w : Word) : (s.setI w).grid = s.grid := rfl
@[simp] theorem State.setI_inputs (w : Word) : (s.setI w).inputs = s.inputs := rfl

@[simp] theorem State.setPc_v (w : Word) : (s.setPc w).v = s.v := rfl
@[simp] theorem State.setPc_i (w : Word) : (s.setPc w).i = s.i := rfl
@[simp] theorem State.setPc_pc (w : Word) : (s.setPc w).pc = w := rfl
@[simp] theorem State.setPc_sp (w : Word) : (s.setPc w).sp = s.sp := rfl
@[simp] theorem State.setPc_dt (w : Word) : (s.setPc w).dt = s.dt := rfl
@[simp] theorem State.setPc_st (w : Word) : (s.setPc w).st = s.st := rfl
@[simp] theorem State.setPc_accNs (w : Word) : (s.setPc w).accNs = s.accNs := rfl
@[simp] theorem State.setPc_tsRef (w : Word) : (s.setPc w).tsRef = s.tsRef := rfl
@[simp] theorem State.setPc_halted (w : Word) : (s.setPc w).halted = s.halted := rfl
@[simp] theorem State.setPc_faultHi (w : Word) : (s.setPc w).faultHi = s.faultHi := rfl
@[simp] theorem State.setPc_faultLo (w : Word) : (s.setPc w).faultLo = s.faultLo := rfl
@[simp] theorem State.setPc_mem (w : Word) : (s.setPc w).mem = s.mem := rfl
@[simp] theorem State.setPc_grid (w : Word) : (s.setPc w).grid = s.grid := rfl
@[simp] theorem State.setPc_inputs (w : Word) : (s.setPc w).inputs = s.inputs := rfl

@[simp] theorem State.advancePc_v : (s.advancePc).v = s.v := rfl
@[simp] theorem State.advancePc_i : (s.advancePc).i = s.i := rfl
@[simp] theorem State.advancePc_pc : (s.advancePc).pc = s.pc + 2#16 := rfl
@[simp] theorem State.advancePc_sp : (s.advancePc).sp = s.sp := rfl
@[simp] theorem State.advancePc_dt : (s.advancePc).dt = s.dt := rfl
@[simp] theorem State.advancePc_st : (s.advancePc).st = s.st := rfl
@[simp] theorem State.advancePc_accNs : (s.advancePc).accNs = s.accNs := rfl
@[simp] theorem State.advancePc_tsRef : (s.advancePc).tsRef = s.tsRef := rfl
@[simp] theorem State.advancePc_halted : (s.advancePc).halted = s.halted := rfl
@[simp] theorem State.advancePc_faultHi : (s.advancePc).faultHi = s.faultHi := rfl
@[simp] theorem State.advancePc_faultLo : (s.advancePc).faultLo = s.faultLo := rfl
@[simp] theorem State.advancePc_mem : (s.advancePc).mem = s.mem := rfl
@[simp] theorem State.advancePc_grid : (s.advancePc).grid = s.grid := rfl
@[simp] theorem State.advancePc_inputs : (s.advancePc).inputs = s.inputs := rfl

@[simp] theorem State.writeByte_v (a : Nat) (b : Byte) : (s.writeByte a b).v = s.v := rfl
@[simp] theorem State.writeByte_i (a : Nat) (b : Byte) : (s.writeByte a b).i = s.i := rfl
@[simp] theorem State.writeByte_pc (a : Nat) (b : Byte) : (s.writeByte a b).pc = s.pc := rfl
@[simp] theorem State.writeByte_sp (a : Nat) (b : Byte) : (s.writeByte a b).sp = s.sp := rfl
@[simp] theorem State.writeByte_dt (a : Nat) (b : Byte) : (s.writeByte a b).dt = s.dt := rfl
@[simp] theorem State.writeByte_st (a : Nat) (b : Byte) : (s.writeByte a b).st = s.st := rfl
@[simp] theorem State.writeByte_accNs (a : Nat) (b : Byte) : (s.writeByte a b).accNs = s.accNs := rfl
@[simp] theorem State.writeByte_tsRef (a : Nat) (b : Byte) : (s.writeByte a b).tsRef = s.tsRef := rfl
@[simp] theorem State.writeByte_halted (a : Nat) (b : Byte) : (s.writeByte a b).halted = s.halted := rfl
@[simp] theorem State.writeByte_faultHi (a : Nat) (b : Byte) : (s.writeByte a b).faultHi = s.faultHi := rfl
@[simp] theorem State.writeByte_faultLo (a : Nat) (b : Byte) : (s.writeByte a b).faultLo = s.faultLo := rfl
@[simp] theorem State.writeByte_mem (a : Nat) (b : Byte) : (s.writeByte a b).mem = s.mem.write (busAddr a) b := rfl
@[simp] theorem State.writeByte_grid (a : Nat) (b : Byte) : (s.writeByte a b).grid = s.grid := rfl
@[simp] theorem State.writeByte_inputs (a : Nat) (b : Byte) : (s.writeByte a b).inputs = s.inputs := rfl

@[simp] theorem State.writeWord_v (a : Nat) (w : Word) : (s.writeWord a w).v = s.v := rfl
@[simp] theorem State.writeWord_i (a : Nat) (w : Word) : (s.writeWord a w).i = s.i := rfl
@[simp] theorem State.writeWord_pc (a : Nat) (w : Word) : (s.writeWord a w).pc = s.pc := rfl
@[simp] theorem State.writeWord_sp (a : Nat) (w : Word) : (s.writeWord a w).sp = s.sp := rfl
@[simp] theorem State.writeWord_dt (a : Nat) (w : Word) : (s.writeWord a w).dt = s.dt := rfl
@[simp] theorem State.writeWord_st (a : Nat) (w : Word) : (s.writeWord a w).st = s.st := rfl
@[simp] theorem State.writeWord_accNs (a : Nat) (w : Word) : (s.writeWord a w).accNs = s.accNs := rfl
@[simp] theorem State.writeWord_tsRef (a : Nat) (w : Word) : (s.writeWord a w).tsRef = s.tsRef := rfl
@[simp] theorem State.writeWord_halted (a : Nat) (w : Word) : (s.writeWord a w).halted = s.halted := rfl
@[simp] theorem State.writeWord_faultHi (a : Nat) (w : Word) : (s.writeWord a w).faultHi = s.faultHi := rfl
@[simp] theorem State.writeWord_faultLo (a : Nat) (w : Word) : (s.writeWord a w).faultLo = s.faultLo := rfl
@[simp] theorem State.writeWord_mem (a : Nat) (w : Word) : (s.writeWord a w).mem = (s.mem.write (busAddr a) (w.extractLsb' 8 8)).write (busAddr (a + 1)) (w.extractLsb' 0 8) := rfl
@[simp] theorem State.writeWord_grid (a : Nat) (w : Word) : (s.writeWord a w).grid = s.grid := rfl
@[simp] theorem State.writeWord_inputs (a : Nat) (w : Word) : (s.writeWord a w).inputs = s.inputs := rfl

@[simp] theorem State.push_v (w : Word) : (s.push w).v = s.v := rfl
@[simp] theorem State.push_i (w : Word) : (s.push w).i = s.i := rfl
@[simp] theorem State.push_pc (w : Word) : (s.push w).pc = s.pc := rfl
@[simp] theorem State.push_sp (w : Word) : (s.push w).sp = s.sp + 1#8 := rfl
@[simp] theorem State.push_dt (w : Word) : (s.push w).dt = s.dt := rfl
@[simp] theorem State.push_st (w : Word) : (s.push w).st = s.st := rfl
@[simp] theorem State.push_accNs (w : Word) : (s.push w).accNs = s.accNs := rfl
@[simp] theorem State.push_tsRef (w : Word) : (s.push w).tsRef = s.tsRef := rfl
@[simp] theorem State.push_halted (w : Word) : (s.push w).halted = s.halted := rfl
@[simp] theorem State.push_faultHi (w : Word) : (s.push w).faultHi = s.faultHi := rfl
@[simp] theorem State.push_faultLo (w : Word) : (s.push w).faultLo = s.faultLo := rfl
@[simp] theorem State.push_mem (w : Word) : (s.push w).mem = ((s.writeWord (slotAddr (s.sp + 1#8)) w).mem) := rfl
@[simp] theorem State.push_grid (w : Word) : (s.push w).grid = s.grid := rfl
@[simp] theorem State.push_inputs (w : Word) : (s.push w).inputs = s.inputs := rfl

@[simp] theorem State.dropTop_v : (s.dropTop).v = s.v := rfl
@[simp] theorem State.dropTop_i : (s.dropTop).i = s.i := rfl
@[simp] theorem State.dropTop_pc : (s.dropTop).pc = s.pc := rfl
@[simp] theorem State.dropTop_sp : (s.dropTop).sp = s.sp - 1#8 := rfl
@[simp] theorem State.dropTop_dt : (s.dropTop).dt = s.dt := rfl
@[simp] theorem State.dropTop_st : (s.dropTop).st = s.st := rfl
@[simp] theorem State.dropTop_accNs : (s.dropTop).accNs = s.accNs := rfl
@[simp] theorem State.dropTop_tsRef : (s.dropTop).tsRef = s.tsRef := rfl
@[simp] theorem State.dropTop_halted : (s.dropTop).halted = s.halted := rfl
@[simp] theorem State.dropTop_faultHi : (s.dropTop).faultHi = s.faultHi := rfl
@[simp] theorem State.dropTop_faultLo : (s.dropTop).faultLo = s.faultLo := rfl
@[simp] theorem State.dropTop_mem : (s.dropTop).mem = s.mem := rfl
@[simp] theorem State.dropTop_grid : (s.dropTop).grid = s.grid := rfl
@[simp] theorem State.dropTop_inputs : (s.dropTop).inputs = s.inputs := rfl

@[simp] theorem State.sampleClock_v : (s.sampleClock).v = s.v := rfl
@[simp] theorem State.sampleClock_i : (s.sampleClock).i = s.i := rfl
@[simp] theorem State.sampleClock_pc : (s.sampleClock).pc = s.pc := rfl
@[simp] theorem State.sampleClock_sp : (s.sampleClock).sp = s.sp := rfl
@[simp] theorem State.sampleClock_dt : (s.sampleClock).dt = s.dt := rfl
@[simp] theorem State.sampleClock_st : (s.sampleClock).st = s.st := rfl
@[simp] theorem State.sampleClock_accNs : (s.sampleClock).accNs = s.accNs := rfl
@[simp] theorem State.sampleClock_tsRef : (s.sampleClock).tsRef = s.tsRef := rfl
@[simp] theorem State.sampleClock_halted : (s.sampleClock).halted = s.halted := rfl
@[simp] theorem State.sampleClock_faultHi : (s.sampleClock).faultHi = s.faultHi := rfl
@[simp] theorem State.sampleClock_faultLo : (s.sampleClock).faultLo = s.faultLo := rfl
@[simp] theorem State.sampleClock_mem : (s.sampleClock).mem = s.mem := rfl
@[simp] theorem State.sampleClock_grid : (s.sampleClock).grid = s.grid := rfl
@[simp] theorem State.sampleClock_inputs : (s.sampleClock).inputs = s.inputs.sampleClock := rfl

@[simp] theorem State.queryRandom_v : (s.queryRandom).v = s.v := rfl
@[simp] theorem State.queryRandom_i : (s.queryRandom).i = s.i := rfl
@[simp] theorem State.queryRandom_pc : (s.queryRandom).pc = s.pc := rfl
@[simp] theorem State.queryRandom_sp : (s.queryRandom).sp = s.sp := rfl
@[simp] theorem State.queryRandom_dt : (s.queryRandom).dt = s.dt := rfl
@[simp] theorem State.queryRandom_st : (s.queryRandom).st = s.st := rfl
@[simp] theorem State.queryRandom_accNs : (s.queryRandom).accNs = s.accNs := rfl
@[simp] theorem State.queryRandom_tsRef : (s.queryRandom).tsRef = s.tsRef := rfl
@[simp] theorem State.queryRandom_halted : (s.queryRandom).halted = s.halted := rfl
@[simp] theorem State.queryRandom_faultHi : (s.queryRandom).faultHi = s.faultHi := rfl
@[simp] theorem State.queryRandom_faultLo : (s.queryRandom).faultLo = s.faultLo := rfl
@[simp] theorem State.queryRandom_mem : (s.queryRandom).mem = s.mem := rfl
@[simp] theorem State.queryRandom_grid : (s.queryRandom).grid = s.grid := rfl
@[simp] theorem State.queryRandom_inputs : (s.queryRandom).inputs = s.inputs.queryRandom := rfl

@[simp] theorem State.queryKey_v : (s.queryKey).v = s.v := rfl
@[simp] theorem State.queryKey_i : (s.queryKey).i = s.i := rfl
@[simp] theorem State.queryKey_pc : (s.queryKey).pc = s.pc := rfl
@[simp] theorem State.queryKey_sp : (s.queryKey).sp = s.sp := rfl
@[simp] theorem State.queryKey_dt : (s.queryKey).dt = s.dt := rfl
@[simp] theorem State.queryKey_st : (s.queryKey).st = s.st := rfl
@[simp] theorem State.queryKey_accNs : (s.queryKey).accNs = s.accNs := rfl
@[simp] theorem State.queryKey_tsRef : (s.queryKey).tsRef = s.tsRef := rfl
@[simp] theorem State.queryKey_halted : (s.queryKey).halted = s.halted := rfl
@[simp] theorem State.queryKey_faultHi : (s.queryKey).faultHi = s.faultHi := rfl
@[simp] theorem State.queryKey_faultLo : (s.queryKey).faultLo = s.faultLo := rfl
@[simp] theorem State.queryKey_mem : (s.queryKey).mem = s.mem := rfl
@[simp] theorem State.queryKey_grid : (s.queryKey).grid = s.grid := rfl
@[simp] theorem State.queryKey_inputs : (s.queryKey).inputs = s.inputs.queryKey := rfl

@[simp] theorem State.raiseUnknownOpcode_v (hi lo : Byte) : (s.raiseUnknownOpcode hi lo).v = s.v := rfl
@[simp] theorem State.raiseUnknownOpcode_i (hi lo : Byte) : (s.raiseUnknownOpcode hi lo).i = s.i := rfl
@[simp] theorem State.raiseUnknownOpcode_pc (hi lo : Byte) : (s.raiseUnknownOpcode hi lo).pc = s.pc := rfl
@[simp] theorem State.raiseUnknownOpcode_sp (hi lo : Byte) : (s.raiseUnknownOpcode hi lo).sp = s.sp := rfl
@[simp] theorem State.raiseUnknownOpcode_dt (hi lo : Byte) : (s.raiseUnknownOpcode hi lo).dt = s.dt := rfl
@[simp] theorem State.raiseUnknownOpcode_st (hi lo : Byte) : (s.raiseUnknownOpcode hi lo).st = s.st := rfl
@[simp] theorem State.raiseUnknownOpcode_accNs (hi lo : Byte) : (s.raiseUnknownOpcode hi lo).accNs = s.accNs := rfl
@[simp] theorem State.raiseUnknownOpcode_tsRef (hi lo : Byte) : (s.raiseUnknownOpcode hi lo).tsRef = s.tsRef := rfl
@[simp] theorem State.raiseUnknownOpcode_halted (hi lo : Byte) : (s.raiseUnknownOpcode hi lo).halted = true := rfl
@[simp] theorem State.raiseUnknownOpcode_faultHi (hi lo : Byte) : (s.raiseUnknownOpcode hi lo).faultHi = hi := rfl
@[simp] theorem State.raiseUnknownOpcode_faultLo (hi lo : Byte) : (s.raiseUnknownOpcode hi lo).faultLo = lo := rfl
@[simp] theorem State.raiseUnknownOpcode_mem (hi lo : Byte) : (s.raiseUnknownOpcode hi lo).mem = s.mem := rfl
@[simp] theorem State.raiseUnknownOpcode_grid (hi lo : Byte) : (s.raiseUnknownOpcode hi lo).grid = s.grid := rfl
@[simp] theorem State.raiseUnknownOpcode_inputs (hi lo : Byte) : (s.raiseUnknownOpcode hi lo).inputs = s.inputs := rfl

@[simp] theorem State.refreshRef_v : (s.refreshRef).v = s.v := rfl
@[simp] theorem State.refreshRef_i : (s.refreshRef).i = s.i := rfl
@[simp] theorem State.refreshRef_pc : (s.refreshRef).pc = s.pc := rfl
@[simp] theorem State.refreshRef_sp : (s.refreshRef).sp = s.sp := rfl
@[simp] theorem State.refreshRef_dt : (s.refreshRef).dt = s.dt := rfl
@[simp] theorem State.refreshRef_st : (s.refreshRef).st = s.st := rfl
@[simp] theorem State.refreshRef_accNs : (s.refreshRef).accNs = s.accNs := rfl
@[simp] theorem State.refreshRef_tsRef : (s.refreshRef).tsRef = some s.inputs.clockNs := rfl
@[simp] theorem State.refreshRef_halted : (s.refreshRef).halted = s.halted := rfl
@[simp] theorem State.refreshRef_faultHi : (s.refreshRef).faultHi = s.faultHi := rfl
@[simp] theorem State.refreshRef_faultLo : (s.refreshRef).faultLo = s.faultLo := rfl
@[simp] theorem State.refreshRef_mem : (s.refreshRef).mem = s.mem := rfl
@[simp] theorem State.refreshRef_grid : (s.refreshRef).grid = s.grid := rfl
@[simp] theorem State.refreshRef_inputs : (s.refreshRef).inputs = s.inputs := rfl

@[simp] theorem State.clearGrid_v : (s.clearGrid).v = s.v := rfl
@[simp] theorem State.clearGrid_i : (s.clearGrid).i = s.i := rfl
@[simp] theorem State.clearGrid_pc : (s.clearGrid).pc = s.pc := rfl
@[simp] theorem State.clearGrid_sp : (s.clearGrid).sp = s.sp := rfl
@[simp] theorem State.clearGrid_dt : (s.clearGrid).dt = s.dt := rfl
@[simp] theorem State.clearGrid_st : (s.clearGrid).st = s.st := rfl
@[simp] theorem State.clearGrid_accNs : (s.clearGrid).accNs = s.accNs := rfl
@[simp] theorem State.clearGrid_tsRef : (s.clearGrid).tsRef = s.tsRef := rfl
@[simp] theorem State.clearGrid_halted : (s.clearGrid).halted = s.halted := rfl
@[simp] theorem State.clearGrid_faultHi : (s.clearGrid).faultHi = s.faultHi := rfl
@[simp] theorem State.clearGrid_faultLo : (s.clearGrid).faultLo = s.faultLo := rfl
@[simp] theorem State.clearGrid_mem : (s.clearGrid).mem = s.mem := rfl
@[simp] theorem State.clearGrid_grid : (s.clearGrid).grid = Grid.dark := rfl
@[simp] theorem State.clearGrid_inputs : (s.clearGrid).inputs = s.inputs := rfl

@[simp] theorem State.decayTick_v : (s.decayTick).v = s.v := rfl
@[simp] theorem State.decayTick_i : (s.decayTick).i = s.i := rfl
@[simp] theorem State.decayTick_pc : (s.decayTick).pc = s.pc := rfl
@[simp] theorem State.decayTick_sp : (s.decayTick).sp = s.sp := rfl
@[simp] theorem State.decayTick_dt : (s.decayTick).dt = s.dt := rfl
@[simp] theorem State.decayTick_st : (s.decayTick).st = s.st := rfl
@[simp] theorem State.decayTick_accNs : (s.decayTick).accNs = s.accNs := rfl
@[simp] theorem State.decayTick_tsRef : (s.decayTick).tsRef = s.tsRef := rfl
@[simp] theorem State.decayTick_halted : (s.decayTick).halted = s.halted := rfl
@[simp] theorem State.decayTick_faultHi : (s.decayTick).faultHi = s.faultHi := rfl
@[simp] theorem State.decayTick_faultLo : (s.decayTick).faultLo = s.faultLo := rfl
@[simp] theorem State.decayTick_mem : (s.decayTick).mem = s.mem := rfl
@[simp] theorem State.decayTick_grid : (s.decayTick).grid = s.grid.decay := rfl
@[simp] theorem State.decayTick_inputs : (s.decayTick).inputs = s.inputs := rfl

@[simp] theorem State.runTimers_v (a : Nat) : (s.runTimers a).v = s.v := rfl
@[simp] theorem State.runTimers_i (a : Nat) : (s.runTimers a).i = s.i := rfl
@[simp] theorem State.runTimers_pc (a : Nat) : (s.runTimers a).pc = s.pc := rfl
@[simp] theorem State.runTimers_sp (a : Nat) : (s.runTimers a).sp = s.sp := rfl
@[simp] theorem State.runTimers_dt (a : Nat) : (s.runTimers a).dt = countDown (timerTicks a) s.dt := rfl
@[simp] theorem State.runTimers_st (a : Nat) : (s.runTimers a).st = countDown (timerTicks a) s.st := rfl
@[simp] theorem State.runTimers_accNs (a : Nat) : (s.runTimers a).accNs = a - timerTicks a * params.timerPeriodNs := rfl
@[simp] theorem State.runTimers_tsRef (a : Nat) : (s.runTimers a).tsRef = s.tsRef := rfl
@[simp] theorem State.runTimers_halted (a : Nat) : (s.runTimers a).halted = s.halted := rfl
@[simp] theorem State.runTimers_faultHi (a : Nat) : (s.runTimers a).faultHi = s.faultHi := rfl
@[simp] theorem State.runTimers_faultLo (a : Nat) : (s.runTimers a).faultLo = s.faultLo := rfl
@[simp] theorem State.runTimers_mem (a : Nat) : (s.runTimers a).mem = s.mem := rfl
@[simp] theorem State.runTimers_grid (a : Nat) : (s.runTimers a).grid = s.grid := rfl
@[simp] theorem State.runTimers_inputs (a : Nat) : (s.runTimers a).inputs = s.inputs := rfl

@[simp] theorem Inputs.sampleClock_clockNs (n : Inputs) : n.sampleClock.clockNs = n.clockNs + n.nextElapsed := rfl
@[simp] theorem Inputs.sampleClock_elapsed (n : Inputs) : n.sampleClock.elapsed = n.elapsed.tail := rfl
@[simp] theorem Inputs.sampleClock_random (n : Inputs) : n.sampleClock.random = n.random := rfl
@[simp] theorem Inputs.sampleClock_keypad (n : Inputs) : n.sampleClock.keypad = n.keypad := rfl
@[simp] theorem Inputs.sampleClock_clockReads (n : Inputs) : n.sampleClock.clockReads = n.clockReads + 1 := rfl
@[simp] theorem Inputs.sampleClock_randomReads (n : Inputs) : n.sampleClock.randomReads = n.randomReads := rfl
@[simp] theorem Inputs.sampleClock_keyReads (n : Inputs) : n.sampleClock.keyReads = n.keyReads := rfl

@[simp] theorem Inputs.queryRandom_clockNs (n : Inputs) : n.queryRandom.clockNs = n.clockNs := rfl
@[simp] theorem Inputs.queryRandom_elapsed (n : Inputs) : n.queryRandom.elapsed = n.elapsed := rfl
@[simp] theorem Inputs.queryRandom_random (n : Inputs) : n.queryRandom.random = n.random.tail := rfl
@[simp] theorem Inputs.queryRandom_keypad (n : Inputs) : n.queryRandom.keypad = n.keypad := rfl
@[simp] theorem Inputs.queryRandom_clockReads (n : Inputs) : n.queryRandom.clockReads = n.clockReads := rfl
@[simp] theorem Inputs.queryRandom_randomReads (n : Inputs) : n.queryRandom.randomReads = n.randomReads + 1 := rfl
@[simp] theorem Inputs.queryRandom_keyReads (n : Inputs) : n.queryRandom.keyReads = n.keyReads := rfl

@[simp] theorem Inputs.queryKey_clockNs (n : Inputs) : n.queryKey.clockNs = n.clockNs := rfl
@[simp] theorem Inputs.queryKey_elapsed (n : Inputs) : n.queryKey.elapsed = n.elapsed := rfl
@[simp] theorem Inputs.queryKey_random (n : Inputs) : n.queryKey.random = n.random := rfl
@[simp] theorem Inputs.queryKey_keypad (n : Inputs) : n.queryKey.keypad = n.keypad.tail := rfl
@[simp] theorem Inputs.queryKey_clockReads (n : Inputs) : n.queryKey.clockReads = n.clockReads := rfl
@[simp] theorem Inputs.queryKey_randomReads (n : Inputs) : n.queryKey.randomReads = n.randomReads := rfl
@[simp] theorem Inputs.queryKey_keyReads (n : Inputs) : n.queryKey.keyReads = n.keyReads + 1 := rfl

@[simp] theorem State.skipIf_v (c : Bool) : (s.skipIf c).v = s.v := by unfold State.skipIf; split <;> rfl
@[simp] theorem State.skipIf_i (c : Bool) : (s.skipIf c).i = s.i := by unfold State.skipIf; split <;> rfl
@[simp] theorem State.skipIf_sp (c : Bool) : (s.skipIf c).sp = s.sp := by unfold State.skipIf; split <;> rfl
@[simp] theorem State.skipIf_dt (c : Bool) : (s.skipIf c).dt = s.dt := by unfold State.skipIf; split <;> rfl
@[simp] theorem State.skipIf_st (c : Bool) : (s.skipIf c).st = s.st := by unfold State.skipIf; split <;> rfl
@[simp] theorem State.skipIf_accNs (c : Bool) : (s.skipIf c).accNs = s.accNs := by unfold State.skipIf; split <;> rfl
@[simp] theorem State.skipIf_tsRef (c : Bool) : (s.skipIf c).tsRef = s.tsRef := by unfold State.skipIf; split <;> rfl
@[simp] theorem State.skipIf_halted (c : Bool) : (s.skipIf c).halted = s.halted := by unfold State.skipIf; split <;> rfl
@[simp] theorem State.skipIf_faultHi (c : Bool) : (s.skipIf c).faultHi = s.faultHi := by unfold State.skipIf; split <;> rfl
@[simp] theorem State.skipIf_faultLo (c : Bool) : (s.skipIf c).faultLo = s.faultLo := by unfold State.skipIf; split <;> rfl
@[simp] theorem State.skipIf_mem (c : Bool) : (s.skipIf c).mem = s.mem := by unfold State.skipIf; split <;> rfl
@[simp] theorem State.skipIf_grid (c : Bool) : (s.skipIf c).grid = s.grid := by unfold State.skipIf; split <;> rfl
@[simp] theorem State.skipIf_inputs (c : Bool) : (s.skipIf c).inputs = s.inputs := by unfold State.skipIf; split <;> rfl

@[simp] theorem State.setResultFlag_i (x : Reg) (b : Byte) (c : Bool) : (s.setResultFlag x b c).i = s.i := rfl
@[simp] theorem State.setResultFlag_pc (x : Reg) (b : Byte) (c : Bool) : (s.setResultFlag x b c).pc = s.pc := rfl
@[simp] theorem State.setResultFlag_sp (x : Reg) (b : Byte) (c : Bool) : (s.setResultFlag x b c).sp = s.sp := rfl
@[simp] theorem State.setResultFlag_dt (x : Reg) (b : Byte) (c : Bool) : (s.setResultFlag x b c).dt = s.dt := rfl
@[simp] theorem State.setResultFlag_st (x : Reg) (b : Byte) (c : Bool) : (s.setResultFlag x b c).st = s.st := rfl
@[simp] theorem State.setResultFlag_accNs (x : Reg) (b : Byte) (c : Bool) : (s.setResultFlag x b c).accNs = s.accNs := rfl
@[simp] theorem State.setResultFlag_tsRef (x : Reg) (b : Byte) (c : Bool) : (s.setResultFlag x b c).tsRef = s.tsRef := rfl
@[simp] theorem State.setResultFlag_halted (x : Reg) (b : Byte) (c : Bool) : (s.setResultFlag x b c).halted = s.halted := rfl
@[simp] theorem State.setResultFlag_faultHi (x : Reg) (b : Byte) (c : Bool) : (s.setResultFlag x b c).faultHi = s.faultHi := rfl
@[simp] theorem State.setResultFlag_faultLo (x : Reg) (b : Byte) (c : Bool) : (s.setResultFlag x b c).faultLo = s.faultLo := rfl
@[simp] theorem State.setResultFlag_mem (x : Reg) (b : Byte) (c : Bool) : (s.setResultFlag x b c).mem = s.mem := rfl
@[simp] theorem State.setResultFlag_grid (x : Reg) (b : Byte) (c : Bool) : (s.setResultFlag x b c).grid = s.grid := rfl
@[simp] theorem State.setResultFlag_inputs (x : Reg) (b : Byte) (c : Bool) : (s.setResultFlag x b c).inputs = s.inputs := rfl

@[simp] theorem State.timerUpdate_v (now : Nat) : (s.timerUpdate now).v = s.v := by unfold State.timerUpdate; split <;> rfl
@[simp] theorem State.timerUpdate_i (now : Nat) : (s.timerUpdate now).i = s.i := by unfold State.timerUpdate; split <;> rfl
@[simp] theorem State.timerUpdate_pc (now : Nat) : (s.timerUpdate now).pc = s.pc := by unfold State.timerUpdate; split <;> rfl
@[simp] theorem State.timerUpdate_sp (now : Nat) : (s.timerUpdate now).sp = s.sp := by unfold State.timerUpdate; split <;> rfl
@[simp] theorem State.timerUpdate_tsRef (now : Nat) : (s.timerUpdate now).tsRef = s.tsRef := by unfold State.timerUpdate; split <;> rfl
@[simp] theorem State.timerUpdate_halted (now : Nat) : (s.timerUpdate now).halted = s.halted := by unfold State.timerUpdate; split <;> rfl
@[simp] theorem State.timerUpdate_faultHi (now : Nat) : (s.timerUpdate now).faultHi = s.faultHi := by unfold State.timerUpdate; split <;> rfl
@[simp] theorem State.timerUpdate_faultLo (now : Nat) : (s.timerUpdate now).faultLo = s.faultLo := by unfold State.timerUpdate; split <;> rfl
@[simp] theorem State.timerUpdate_mem (now : Nat) : (s.timerUpdate now).mem = s.mem := by unfold State.timerUpdate; split <;> rfl
@[simp] theorem State.timerUpdate_grid (now : Nat) : (s.timerUpdate now).grid = s.grid := by unfold State.timerUpdate; split <;> rfl
@[simp] theorem State.timerUpdate_inputs (now : Nat) : (s.timerUpdate now).inputs = s.inputs := by unfold State.timerUpdate; split <;> rfl

@[simp] theorem State.storeBytes_v (s : State) (a : Nat) (bs : List Byte) : (s.storeBytes a bs).v = s.v := by
  induction bs generalizing s a with
  | nil => rfl
  | cons b bs ih => exact ih (s.writeByte a b) (a + 1)
@[simp] theorem State.storeBytes_i (s : State) (a : Nat) (bs : List Byte) : (s.storeBytes a bs).i = s.i := by
  induction bs generalizing s a with
  | nil => rfl
  | cons b bs ih => exact ih (s.writeByte a b) (a + 1)
@[simp] theorem State.storeBytes_pc (s : State) (a : Nat) (bs : List Byte) : (s.storeBytes a bs).pc = s.pc := by
  induction bs generalizing s a with
  | nil => rfl
  | cons b bs ih => exact ih (s.writeByte a b) (a + 1)
@[simp] theorem State.storeBytes_sp (s : State) (a : Nat) (bs : List Byte) : (s.storeBytes a bs).sp = s.sp := by
  induction bs generalizing s a with
  | nil => rfl
  | cons b bs ih => exact ih (s.writeByte a b) (a + 1)
@[simp] theorem State.storeBytes_dt (s : State) (a : Nat) (bs : List Byte) : (s.storeBytes a bs).dt = s.dt := by
  induction bs generalizing s a with
  | nil => rfl
  | cons b bs ih => exact ih (s.writeByte a b) (a + 1)
@[simp] theorem State.storeBytes_st (s : State) (a : Nat) (bs : List Byte) : (s.storeBytes a bs).st = s.st := by
  induction bs generalizing s a with
  | nil => rfl
  | cons b bs ih => exact ih (s.writeByte a b) (a + 1)
@[simp] theorem State.storeBytes_accNs (s : State) (a : Nat) (bs : List Byte) : (s.storeBytes a bs).accNs = s.accNs := by
  induction bs generalizing s a with
  | nil => rfl
  | cons b bs ih => exact ih (s.writeByte a b) (a + 1)
@[simp] theorem State.storeBytes_tsRef (s : State) (a : Nat) (bs : List Byte) : (s.storeBytes a bs).tsRef = s.tsRef := by
  induction bs generalizing s a with
  | nil => rfl
  | cons b bs ih => exact ih (s.writeByte a b) (a + 1)
@[simp] theorem State.storeBytes_halted (s : State) (a : Nat) (bs : List Byte) : (s.storeBytes a bs).halted = s.halted := by
  induction bs generalizing s a with
  | nil => rfl
  | cons b bs ih => exact ih (s.writeByte a b) (a + 1)
@[simp] theorem State.storeBytes_faultHi (s : State) (a : Nat) (bs : List Byte) : (s.storeBytes a bs).faultHi = s.faultHi := by
  induction bs generalizing s a with
  | nil => rfl
  | cons b bs ih => exact ih (s.writeByte a b) (a + 1)
@[simp] theorem State.storeBytes_faultLo (s : State) (a : Nat) (bs : List Byte) : (s.storeBytes a bs).faultLo = s.faultLo := by
  induction bs generalizing s a with
  | nil => rfl
  | cons b bs ih => exact ih (s.writeByte a b) (a + 1)
@[simp] theorem State.storeBytes_grid (s : State) (a : Nat) (bs : List Byte) : (s.storeBytes a bs).grid = s.grid := by
  induction bs generalizing s a with
  | nil => rfl
  | cons b bs ih => exact ih (s.writeByte a b) (a + 1)
@[simp] theorem State.storeBytes_inputs (s : State) (a : Nat) (bs : List Byte) : (s.storeBytes a bs).inputs = s.inputs := by
  induction bs generalizing s a with
  | nil => rfl
  | cons b bs ih => exact ih (s.writeByte a b) (a + 1)

@[simp] theorem State.loadRegBlock_i (a n : Nat) : (s.loadRegBlock a n).i = s.i := by
  induction n with
  | zero => rfl
  | succ n ih => exact ih
@[simp] theorem State.loadRegBlock_pc (a n : Nat) : (s.loadRegBlock a n).pc = s.pc := by
  induction n with
  | zero => rfl
  | succ n ih => exact ih
@[simp] theorem State.loadRegBlock_sp (a n : Nat) : (s.loadRegBlock a n).sp = s.sp := by
  induction n with
  | zero => rfl
  | succ n ih => exact ih
@[simp] theorem State.loadRegBlock_dt (a n : Nat) : (s.loadRegBlock a n).dt = s.dt := by
  induction n with
  | zero => rfl
  | succ n ih => exact ih
@[simp] theorem State.loadRegBlock_st (a n : Nat) : (s.loadRegBlock a n).st = s.st := by
  induction n with
  | zero => rfl
  | succ n ih => exact ih
@[simp] theorem State.loadRegBlock_accNs (a n : Nat) : (s.loadRegBlock a n).accNs = s.accNs := by
  induction n with
  | zero => rfl
  | succ n ih => exact ih
@[simp] theorem State.loadRegBlock_tsRef (a n : Nat) : (s.loadRegBlock a n).tsRef = s.tsRef := by
  induction n with
  | zero => rfl
  | succ n ih => exact ih
@[simp] theorem State.loadRegBlock_halted (a n : Nat) : (s.loadRegBlock a n).halted = s.halted := by
  induction n with
  | zero => rfl
  | succ n ih => exact ih
@[simp] theorem State.loadRegBlock_faultHi (a n : Nat) : (s.loadRegBlock a n).faultHi = s.faultHi := by
  induction n with
  | zero => rfl
  | succ n ih => exact ih
@[simp] theorem State.loadRegBlock_faultLo (a n : Nat) : (s.loadRegBlock a n).faultLo = s.faultLo := by
  induction n with
  | zero => rfl
  | succ n ih => exact ih
@[simp] theorem State.loadRegBlock_mem (a n : Nat) : (s.loadRegBlock a n).mem = s.mem := by
  induction n with
  | zero => rfl
  | succ n ih => exact ih
@[simp] theorem State.loadRegBlock_grid (a n : Nat) : (s.loadRegBlock a n).grid = s.grid := by
  induction n with
  | zero => rfl
  | succ n ih => exact ih
@[simp] theorem State.loadRegBlock_inputs (a n : Nat) : (s.loadRegBlock a n).inputs = s.inputs := by
  induction n with
  | zero => rfl
  | succ n ih => exact ih

@[simp] theorem State.skipIf_pc (c : Bool) : (s.skipIf c).pc = if c then s.pc + 2#16 else s.pc := by
  unfold State.skipIf; split <;> rfl

theorem State.skipIf_true : s.skipIf true = s.advancePc := rfl

theorem State.skipIf_false : s.skipIf false = s := rfl

@[simp] theorem State.bookkeep_v : s.bookkeep.v = s.v := by simp [State.bookkeep]
@[simp] theorem State.bookkeep_i : s.bookkeep.i = s.i := by simp [State.bookkeep]
@[simp] theorem State.bookkeep_pc : s.bookkeep.pc = s.pc := by simp [State.bookkeep]
@[simp] theorem State.bookkeep_sp : s.bookkeep.sp = s.sp := by simp [State.bookkeep]
@[simp] theorem State.bookkeep_tsRef : s.bookkeep.tsRef = s.tsRef := by simp [State.bookkeep]
@[simp] theorem State.bookkeep_halted : s.bookkeep.halted = s.halted := by simp [State.bookkeep]
@[simp] theorem State.bookkeep_faultHi : s.bookkeep.faultHi = s.faultHi := by simp [State.bookkeep]
@[simp] theorem State.bookkeep_faultLo : s.bookkeep.faultLo = s.faultLo := by simp [State.bookkeep]
@[simp] theorem State.bookkeep_mem : s.bookkeep.mem = s.mem := by simp [State.bookkeep]
@[simp] theorem State.bookkeep_grid : s.bookkeep.grid = s.grid.decay := by simp [State.bookkeep]
@[simp] theorem State.bookkeep_inputs : s.bookkeep.inputs = s.inputs.sampleClock := by simp [State.bookkeep]

@[simp] theorem State.sampleClock_nowNs : s.sampleClock.nowNs = s.inputs.clockNs + s.inputs.nextElapsed := rfl

/-- The parameters, one by one (00_scope.md rule R5). -/
@[simp] theorem params_stackBase : params.stackBase = 0x100 := rfl

@[simp] theorem params_fontBase : params.fontBase = 0 := rfl

@[simp] theorem params_glyphBytes : params.glyphBytes = 5 := rfl

@[simp] theorem params_progBase : params.progBase = 0x200 := rfl

@[simp] theorem params_romMax : params.romMax = 2048 := rfl

@[simp] theorem params_timerPeriodNs : params.timerPeriodNs = 16666666 := rfl

@[simp] theorem params_timerCatchup : params.timerCatchup = .single := rfl

@[simp] theorem params_vfOrder : params.vfOrder = .flagLast := rfl

@[simp] theorem params_shiftSource : params.shiftSource = .vx := rfl

@[simp] theorem params_fontIndex : params.fontIndex = .fullByte := rfl

@[simp] theorem params_ldstMovesI : params.ldstMovesI = false := rfl

end Sys2Proof.Machine
end

