-- ==== Sys2Proof/Laws/Decode.lean ====
section
/-! SUPPORT. The opcode map and the field layout: rows do not overlap, a matched row is the one selected, fields of packed words. -/

namespace Sys2Proof

/-- No two rows of the opcode map overlap: some bit both masks fix differs (30_encoding.md section 3). -/
theorem opcodeRows_disjoint :
    opcodeRows.Pairwise (fun r q => (r.value ^^^ q.value) &&& (r.mask &&& q.mask) ≠ 0#16) := by decide

/-- No row fixes a bit outside its mask. -/
theorem opcodeRows_masked : ∀ r ∈ opcodeRows, r.value &&& r.mask = r.value := by decide

theorem Row.matches_iff (r : Row) (w : Word) : r.matches w = true ↔ w &&& r.mask = r.value := by
  simp [Row.matches]

/-- Two rows that fix some common bit differently match no common word. -/
theorem Row.not_both {r q : Row} (h : (r.value ^^^ q.value) &&& (r.mask &&& q.mask) ≠ 0#16) {w : Word}
    (hr : r.matches w = true) : q.matches w = false := by
  by_contra hq
  rw [Bool.not_eq_false, Row.matches_iff] at hq
  rw [Row.matches_iff] at hr
  apply h
  rw [← hr, ← hq]
  apply BitVec.eq_of_getLsbD_eq
  intro i _
  simp only [BitVec.getLsbD_and, BitVec.getLsbD_xor, BitVec.getLsbD_zero]
  cases w.getLsbD i <;> cases r.mask.getLsbD i <;> cases q.mask.getLsbD i <;> rfl

theorem find_of_pairwise {rows : List Row}
    (hp : rows.Pairwise (fun r q => (r.value ^^^ q.value) &&& (r.mask &&& q.mask) ≠ 0#16)) {r : Row} {w : Word}
    (hm : r ∈ rows) (hr : r.matches w = true) : rows.find? (·.matches w) = some r := by
  induction rows with
  | nil => cases hm
  | cons q rest ih =>
    rw [List.pairwise_cons] at hp
    rcases List.mem_cons.1 hm with rfl | hm
    · simp [hr]
    · have hq : q.matches w = false := by
        by_contra hq
        have := Row.not_both (hp.1 r hm) (Bool.not_eq_false _ ▸ hq)
        rw [hr] at this; cases this
      rw [List.find?_cons_of_neg (by simp [hq])]
      exact ih hp.2 hm

/-- The row that a word matches is the row it selects (40_step_cycle.md rule R124). -/
theorem selectRow_of_matches {r : Row} {w : Word} (hm : r ∈ opcodeRows) (hr : r.matches w = true) :
    selectRow w = some r := find_of_pairwise opcodeRows_disjoint hm hr

theorem selectRow_some {r : Row} {w : Word} (h : selectRow w = some r) : r ∈ opcodeRows ∧ r.matches w = true :=
  ⟨List.mem_of_find?_eq_some h, List.find?_some (p := fun r : Row => r.matches w) h⟩

theorem decode_of_matches {r : Row} {hi lo : Byte} (hm : r ∈ opcodeRows) (hr : r.matches (hi ++ lo) = true) :
    decode hi lo = .ok (r.build (hi ++ lo)) := by
  unfold decode; rw [selectRow_of_matches hm hr]

/-- What the decoder answers, once: the selected row's instruction, or the one reject with the two bytes. -/
theorem decode_cases (hi lo : Byte) :
    (∃ r ∈ opcodeRows, r.matches (hi ++ lo) = true ∧ decode hi lo = .ok (r.build (hi ++ lo))) ∨
    ((∀ r ∈ opcodeRows, r.matches (hi ++ lo) = false) ∧ decode hi lo = .error (.unknownOpcode hi lo)) := by
  cases h : selectRow (hi ++ lo) with
  | some r =>
    obtain ⟨hm, hr⟩ := selectRow_some h
    exact .inl ⟨r, hm, hr, decode_of_matches hm hr⟩
  | none =>
    refine .inr ⟨fun r hr => ?_, by unfold decode; rw [h]⟩
    have := List.find?_eq_none.1 h r hr
    simpa using this

/-- A rejection carries the two bytes it was asked about (60_exceptions.md rule R252). -/
theorem decode_error {hi lo a b : Byte} (h : decode hi lo = .error (.unknownOpcode a b)) : a = hi ∧ b = lo := by
  rcases decode_cases hi lo with ⟨r, _, _, e⟩ | ⟨_, e⟩
  · rw [e] at h; cases h
  · rw [e] at h; cases h; exact ⟨rfl, rfl⟩

/-! ### Bits of packed words (30_encoding.md rule R92, rule R93) -/

theorem packNNN_bit (n0 : BitVec 4) (nnn : Addr12) (i : Nat) :
    (packNNN n0 nnn).getLsbD i = if i < 12 then nnn.getLsbD i else n0.getLsbD (i - 12) := by
  rw [← BitVec.getLsbD_append]; rfl

theorem packXKK_bit (n0 : BitVec 4) (x : Reg) (kk : Byte) (i : Nat) :
    (packXKK n0 x kk).getLsbD i =
      if i < 8 then kk.getLsbD i
      else if i - 8 < 4 then (BitVec.ofFin (w := 4) x).getLsbD (i - 8) else n0.getLsbD (i - 8 - 4) := by
  rw [← BitVec.getLsbD_append, ← BitVec.getLsbD_append]; rfl

theorem packXY_bit (n0 : BitVec 4) (x y : Reg) (n3 : BitVec 4) (i : Nat) :
    (packXY n0 x y n3).getLsbD i =
      if i < 4 then n3.getLsbD i
      else if i - 4 < 4 then (BitVec.ofFin (w := 4) y).getLsbD (i - 4)
      else if i - 4 - 4 < 4 then (BitVec.ofFin (w := 4) x).getLsbD (i - 4 - 4) else n0.getLsbD (i - 4 - 4 - 4) := by
  rw [← BitVec.getLsbD_append, ← BitVec.getLsbD_append, ← BitVec.getLsbD_append]; rfl

/-! ### Masks of packed words -/

theorem packNNN_and (n0 : BitVec 4) (nnn : Addr12) : packNNN n0 nnn &&& 0xF000#16 = packNNN n0 0#12 := by
  apply BitVec.eq_of_getLsbD_eq
  intro i hi
  rw [BitVec.getLsbD_and, packNNN_bit, packNNN_bit]
  interval_cases i <;> simp

theorem packXKK_and (n0 : BitVec 4) (x : Reg) (kk : Byte) : packXKK n0 x kk &&& 0xF000#16 = packNNN n0 0#12 := by
  apply BitVec.eq_of_getLsbD_eq
  intro i hi
  rw [BitVec.getLsbD_and, packXKK_bit, packNNN_bit]
  interval_cases i <;> simp

theorem packXKK_and_low (n0 : BitVec 4) (x : Reg) (kk : Byte) : packXKK n0 x kk &&& 0xF0FF#16 = packXKK n0 0 kk := by
  apply BitVec.eq_of_getLsbD_eq
  intro i hi
  rw [BitVec.getLsbD_and, packXKK_bit, packXKK_bit]
  interval_cases i <;> simp

theorem packXY_and (n0 : BitVec 4) (x y : Reg) (n3 : BitVec 4) : packXY n0 x y n3 &&& 0xF000#16 = packNNN n0 0#12 := by
  apply BitVec.eq_of_getLsbD_eq
  intro i hi
  rw [BitVec.getLsbD_and, packXY_bit, packNNN_bit]
  interval_cases i <;> simp

theorem packXY_and_low (n0 : BitVec 4) (x y : Reg) (n3 : BitVec 4) :
    packXY n0 x y n3 &&& 0xF00F#16 = packXY n0 0 0 n3 := by
  apply BitVec.eq_of_getLsbD_eq
  intro i hi
  rw [BitVec.getLsbD_and, packXY_bit, packXY_bit]
  interval_cases i <;> simp

/-! ### Fields of packed words -/

theorem fieldNNN_packNNN (n0 : BitVec 4) (nnn : Addr12) : fieldNNN (packNNN n0 nnn) = nnn := by
  apply BitVec.eq_of_getLsbD_eq
  intro i hi
  simp [fieldNNN, packNNN_bit, hi]

theorem fieldKK_packXKK (n0 : BitVec 4) (x : Reg) (kk : Byte) : fieldKK (packXKK n0 x kk) = kk := by
  apply BitVec.eq_of_getLsbD_eq
  intro i hi
  simp [fieldKK, packXKK_bit, hi]

theorem toFin_of_bits {b : BitVec 4} {x : Reg} (h : b = BitVec.ofFin (w := 4) x) : b.toFin = x := by
  rw [h]

theorem fieldX_packXKK (n0 : BitVec 4) (x : Reg) (kk : Byte) : fieldX (packXKK n0 x kk) = x := by
  apply toFin_of_bits
  apply BitVec.eq_of_getLsbD_eq
  intro i hi
  rw [BitVec.getLsbD_extractLsb', packXKK_bit]
  interval_cases i <;> simp

theorem fieldX_packXY (n0 : BitVec 4) (x y : Reg) (n3 : BitVec 4) : fieldX (packXY n0 x y n3) = x := by
  apply toFin_of_bits
  apply BitVec.eq_of_getLsbD_eq
  intro i hi
  rw [BitVec.getLsbD_extractLsb', packXY_bit]
  interval_cases i <;> simp

theorem fieldY_packXY (n0 : BitVec 4) (x y : Reg) (n3 : BitVec 4) : fieldY (packXY n0 x y n3) = y := by
  apply toFin_of_bits
  apply BitVec.eq_of_getLsbD_eq
  intro i hi
  rw [BitVec.getLsbD_extractLsb', packXY_bit]
  interval_cases i <;> simp

theorem fieldN_packXY (n0 : BitVec 4) (x y : Reg) (n3 : BitVec 4) : fieldN (packXY n0 x y n3) = n3.toNat := by
  unfold fieldN
  congr 1
  apply BitVec.eq_of_getLsbD_eq
  intro i hi
  rw [BitVec.getLsbD_extractLsb', packXY_bit]
  interval_cases i <;> simp

/-- A word is its high byte over its low byte (rule R91). -/
theorem word_of_bytes (w : Word) : w.extractLsb' 8 8 ++ w.extractLsb' 0 8 = w := by
  apply BitVec.eq_of_getLsbD_eq
  intro i hi
  rw [BitVec.getLsbD_append]
  split
  · rename_i h; simp [h]
  · rename_i h
    have h8 : i - 8 < 8 := by omega
    have e : 8 + (i - 8) = i := by omega
    simp [h8, e]

/-- The two bytes of an instruction's word make that word (rule R91). -/
theorem encode_bytes (i : Instr) : encodeHi i ++ encodeLo i = encode i := word_of_bytes (encode i)

end Sys2Proof
end

