-- ==== Sys2Proof/Laws/Memory.lean ====
section
/-! SUPPORT. Memory: a read after a write, and that every memory operation keeps the canonical form `Memory.wf`. -/

namespace Sys2Proof.Machine

/-! ### Reads after writes, in any memory -/

theorem Memory.read_dropCell_same (m : Memory) (a : Nat) : (m.dropCell a).read a = background a := by
  induction m with
  | nil => rfl
  | cons c rest ih =>
    by_cases h : c.1 = a
    · simpa [Memory.dropCell, h] using ih
    · simpa [Memory.dropCell, Memory.read, h] using ih

theorem Memory.read_dropCell_ne (m : Memory) {a k : Nat} (h : k ≠ a) : (m.dropCell a).read k = m.read k := by
  induction m with
  | nil => rfl
  | cons c rest ih =>
    by_cases hc : c.1 = a
    · have hk : c.1 ≠ k := fun e => h (e ▸ hc)
      rw [Memory.read, if_neg hk, ← ih]
      simp [Memory.dropCell, hc]
    · have hd : Memory.dropCell (c :: rest) a = c :: Memory.dropCell rest a := by simp [Memory.dropCell, hc]
      rw [hd, Memory.read, Memory.read, ih]

theorem Memory.read_putCell_same (m : Memory) (a : Nat) (b : Byte) (h : ∀ c ∈ m, c.1 ≠ a) : (m.putCell a b).read a = b := by
  induction m with
  | nil => simp [Memory.putCell, Memory.read]
  | cons c rest ih =>
    unfold Memory.putCell
    split
    · simp [Memory.read]
    · rw [Memory.read, if_neg (h c (by simp))]
      exact ih fun d hd => h d (by simp [hd])

theorem Memory.read_putCell_ne (m : Memory) {a k : Nat} (b : Byte) (h : k ≠ a) : (m.putCell a b).read k = m.read k := by
  induction m with
  | nil => simp [Memory.putCell, Memory.read, h.symm]
  | cons c rest ih =>
    unfold Memory.putCell
    split
    · rw [Memory.read, if_neg h.symm]
    · rw [Memory.read, Memory.read, ih]

theorem Memory.mem_dropCell {m : Memory} {a : Nat} {c : Host.Cell} : c ∈ m.dropCell a ↔ c ∈ m ∧ c.1 ≠ a := by
  simp [Memory.dropCell]

/-- The byte written is the byte read (rule R61, rule R62). -/
@[simp] theorem Memory.read_write_same (m : Memory) (a : Nat) (b : Byte) : (m.write a b).read a = b := by
  unfold Memory.write
  split
  · rename_i h; rw [Memory.read_dropCell_same, h]
  · exact Memory.read_putCell_same _ _ _ fun c hc => (Memory.mem_dropCell.1 hc).2

/-- A write changes no other byte (rule R62). -/
theorem Memory.read_write_ne (m : Memory) {a k : Nat} (b : Byte) (h : k ≠ a) : (m.write a b).read k = m.read k := by
  unfold Memory.write
  split
  · exact Memory.read_dropCell_ne m h
  · rw [Memory.read_putCell_ne _ b h, Memory.read_dropCell_ne m h]

theorem Memory.read_write (m : Memory) (a k : Nat) (b : Byte) :
    (m.write a b).read k = if k = a then b else m.read k := by
  split
  · rename_i h; rw [h, Memory.read_write_same]
  · rename_i h; exact Memory.read_write_ne m b h

/-- From `PROG_BASE` up nothing is listed after `zeroProgram`, so those indexes read as unlisted; below nothing changes. -/
theorem Memory.read_zeroProgram (m : Memory) (k : Nat) :
    m.zeroProgram.read k = if k < 0x200 then m.read k else background k := by
  induction m with
  | nil => simp [Memory.zeroProgram, Memory.read]
  | cons c rest ih =>
    have hz : Memory.zeroProgram (c :: rest) =
        if c.1 < 0x200 then c :: Memory.zeroProgram rest else Memory.zeroProgram rest := by
      by_cases h : c.1 < 0x200
      · rw [if_pos h]; exact List.filter_cons_of_pos (decide_eq_true (p := c.1 < params.progBase) h)
      · rw [if_neg h]; exact List.filter_cons_of_neg (fun e => h (of_decide_eq_true (p := c.1 < params.progBase) e))
    rw [hz]
    by_cases hc : c.1 < 0x200
    · rw [if_pos hc, Memory.read, Memory.read, ih]
      by_cases hk : c.1 = k
      · subst hk; simp [hc]
      · simp [hk]
    · rw [if_neg hc, ih]
      by_cases hk : k < 0x200
      · rw [if_pos hk, if_pos hk, Memory.read, if_neg (by omega)]
      · rw [if_neg hk, if_neg hk]

/-- Beyond the font an unlisted address reads 0x00 (20_memory.md rule R69). -/
theorem background_of_ge {a : Nat} (h : 80 ≤ a) : background a = 0#8 := by
  unfold background
  rw [List.getD_eq_default]
  exact h

/-! ### The canonical form -/

theorem Memory.wf_nil : Memory.wf [] := by simp [Memory.wf]

theorem Memory.wf_filter {m : Memory} (p : Host.Cell → Bool) (h : m.wf) : Memory.wf (m.filter p) :=
  ⟨h.1.sublist List.filter_sublist, fun c hc => h.2 c (List.mem_of_mem_filter hc)⟩

theorem Memory.wf_dropCell {m : Memory} (a : Nat) (h : m.wf) : (m.dropCell a).wf := Memory.wf_filter _ h

theorem Memory.wf_zeroProgram {m : Memory} (h : m.wf) : m.zeroProgram.wf := Memory.wf_filter _ h

theorem Memory.mem_putCell {m : Memory} {a : Nat} {b : Byte} {c : Host.Cell} :
    c ∈ m.putCell a b ↔ c = (a, b) ∨ c ∈ m := by
  induction m with
  | nil => simp [Memory.putCell]
  | cons d rest ih =>
    unfold Memory.putCell
    split
    · simp
    · simp only [List.mem_cons, ih]; tauto

theorem Memory.pairwise_putCell {m : Memory} {a : Nat} {b : Byte} (h : m.Pairwise (fun c d => c.1 < d.1))
    (hn : ∀ c ∈ m, c.1 ≠ a) : (m.putCell a b).Pairwise (fun c d => c.1 < d.1) := by
  induction m with
  | nil => simp [Memory.putCell]
  | cons d rest ih =>
    rw [List.pairwise_cons] at h
    unfold Memory.putCell
    split
    · rename_i hlt
      refine List.pairwise_cons.2 ⟨fun e he => ?_, List.pairwise_cons.2 h⟩
      rcases List.mem_cons.1 he with rfl | he
      · exact hlt
      · exact Nat.lt_trans hlt (h.1 e he)
    · rename_i hge
      refine List.pairwise_cons.2 ⟨fun e he => ?_, ih h.2 fun c hc => hn c (by simp [hc])⟩
      rcases Memory.mem_putCell.1 he with rfl | he
      · have := hn d (by simp)
        simp only; omega
      · exact h.1 e he

/-- A write keeps the canonical form. -/
theorem Memory.wf_write {m : Memory} {a : Nat} (b : Byte) (ha : a < memSize) (h : m.wf) : (m.write a b).wf := by
  unfold Memory.write
  split
  · exact Memory.wf_dropCell a h
  · rename_i hb
    have hd := Memory.wf_dropCell a h
    refine ⟨Memory.pairwise_putCell hd.1 fun c hc => (Memory.mem_dropCell.1 hc).2, fun c hc => ?_⟩
    rcases Memory.mem_putCell.1 hc with rfl | hc
    · exact ⟨ha, hb⟩
    · exact hd.2 c hc

/-! ### The bus -/

theorem busAddr_lt (a : Nat) : busAddr a < memSize := Nat.mod_lt _ (by decide)

/-- `MemRead` after `MemWrite`, at any two addresses (rule R9, rule R60). -/
theorem State.readByte_writeByte (s : State) (a k : Nat) (b : Byte) :
    (s.writeByte a b).readByte k = if k % 4096 = a % 4096 then b else s.readByte k := by
  unfold State.readByte State.writeByte busAddr memSize
  exact Memory.read_write _ _ _ _

theorem State.readByte_eq (s : State) (a : Nat) : s.readByte a = s.mem.read (a % 4096) := rfl

/-- Reads look at memory alone. -/
theorem State.readByte_congr {s t : State} (h : t.mem = s.mem) (a : Nat) : t.readByte a = s.readByte a := by
  unfold State.readByte; rw [h]

theorem State.readByte_mod (s : State) (a : Nat) : s.readByte (a % 4096) = s.readByte a := by
  unfold State.readByte busAddr memSize; rw [Nat.mod_mod]

theorem State.wf_writeByte {s : State} (a : Nat) (b : Byte) (h : s.mem.wf) : (s.writeByte a b).mem.wf :=
  Memory.wf_write b (busAddr_lt a) h

theorem State.wf_writeWord {s : State} (a : Nat) (w : Word) (h : s.mem.wf) : (s.writeWord a w).mem.wf :=
  State.wf_writeByte _ _ (State.wf_writeByte _ _ h)

theorem State.wf_storeBytes {s : State} (a : Nat) (bs : List Byte) (h : s.mem.wf) : (s.storeBytes a bs).mem.wf := by
  induction bs generalizing s a with
  | nil => exact h
  | cons b bs ih => exact ih (a + 1) (State.wf_writeByte a b h)

theorem State.wf_push {s : State} (w : Word) (h : s.mem.wf) : (s.push w).mem.wf :=
  State.wf_writeWord (s := { s with sp := s.sp + 1#8 }) _ _ h

theorem State.wf_loadImage {s : State} (bytes : List Byte) (h : s.mem.wf) : (s.loadImage bytes).mem.wf :=
  State.wf_storeBytes _ _ (Memory.wf_zeroProgram h)

/-- Everything a block store can do to memory: byte `j` of the block lies at `a + j`, every other byte is as before. The block
is shorter than the address space, so it does not overlap itself (44_index_memory_timer_ops.md rule R230). -/
theorem State.readByte_storeBytes (s : State) (a : Nat) (bs : List Byte) (hl : bs.length ≤ 4096) (k : Nat) :
    (s.storeBytes a bs).readByte k =
      if (k + 4096 - a % 4096) % 4096 < bs.length then bs.getD ((k + 4096 - a % 4096) % 4096) 0#8
      else s.readByte k := by
  induction bs generalizing s a with
  | nil => simp [State.storeBytes]
  | cons b bs ih =>
    have hl' : bs.length ≤ 4096 := by simp at hl; omega
    have hlen : (b :: bs).length = bs.length + 1 := rfl
    rw [State.storeBytes, ih _ _ hl', hlen, State.readByte_writeByte]
    rw [hlen] at hl
    by_cases h0 : k % 4096 = a % 4096
    · have e0 : (k + 4096 - a % 4096) % 4096 = 0 := by omega
      have e1 : (k + 4096 - (a + 1) % 4096) % 4096 = 4095 := by omega
      rw [e0, e1, if_pos h0, if_neg (by omega), if_pos (by omega)]
      rfl
    · have e1 : (k + 4096 - a % 4096) % 4096 = (k + 4096 - (a + 1) % 4096) % 4096 + 1 := by omega
      rw [e1, if_neg h0, List.getD_cons_succ]
      simp only [Nat.add_lt_add_iff_right]

/-- The word written is the word read, at any address (rule R9, 42_control_flow.md rule R171). -/
theorem State.readWord_writeWord (s : State) (a : Nat) (w : Word) : (s.writeWord a w).readWord a = w := by
  have h1 : a % 4096 ≠ (a + 1) % 4096 := by omega
  unfold State.readWord State.writeWord
  simp only [State.readByte_writeByte, if_neg h1, if_true, word_of_bytes]

end Sys2Proof.Machine
end

