-- ==== Sys2Proof/Laws/Ops.lean ====
section
/-! SUPPORT. What each shared operation can do, once: registers, flags, stack, block load, timers, inputs. -/

namespace Sys2Proof.Machine

/-! ### Registers -/

@[simp] theorem State.getV_setV_same (s : State) (x : Reg) (b : Byte) : (s.setV x b).getV x = b := by
  simp [State.getV]

theorem State.getV_setV_ne (s : State) {x k : Reg} (b : Byte) (h : k ≠ x) : (s.setV x b).getV k = s.getV k := by
  have h' : x.val ≠ k.val := fun e => h (Fin.ext e.symm)
  simp [State.getV, Vector.getElem_set_ne, h']

theorem State.getV_setV (s : State) (x k : Reg) (b : Byte) : (s.setV x b).getV k = if k = x then b else s.getV k := by
  split
  · rename_i h; rw [h, State.getV_setV_same]
  · rename_i h; exact State.getV_setV_ne s b h

/-- Register reads look at the register file alone. -/
theorem State.getV_congr {s t : State} (h : t.v = s.v) (x : Reg) : t.getV x = s.getV x := by
  unfold State.getV; rw [h]

/-- A flag-setting instruction leaves the flag in VF, the result in `V[x]` when `x` is not 0xF, and every other register as
before (41_alu.md rule R141, decision D11). -/
theorem State.getV_setResultFlag (s : State) (x k : Reg) (b : Byte) (c : Bool) :
    (s.setResultFlag x b c).getV k = if k = regVF then flagByte c else if k = x then b else s.getV k := by
  have h : s.setResultFlag x b c = (s.setV x b).setV regVF (flagByte c) := rfl
  rw [h, State.getV_setV, State.getV_setV]

/-- A block load leaves element `j` in `V[j]` for `j < n` and every other register as before
(44_index_memory_timer_ops.md rule R225). -/
theorem State.getV_loadRegBlock (s : State) (a n : Nat) (hn : n ≤ 16) (k : Reg) :
    (s.loadRegBlock a n).getV k = if k.val < n then s.readByte (a + k.val) else s.getV k := by
  induction n with
  | zero => rfl
  | succ n ih =>
    have hm : (Fin.ofNat 16 n).val = n := by simp [Fin.ofNat]; omega
    rw [State.loadRegBlock, State.getV_setV, ih (by omega)]
    by_cases hk : k.val = n
    · have : k = Fin.ofNat 16 n := Fin.ext (by rw [hm, hk])
      rw [if_pos this, if_pos (by omega), hk]
    · have : k ≠ Fin.ofNat 16 n := fun e => hk (by rw [e, hm])
      rw [if_neg this]
      by_cases h : k.val < n
      · rw [if_pos h, if_pos (by omega)]
      · rw [if_neg h, if_neg (by omega)]

/-! ### The call stack -/

/-- The slot of a stack pointer value, 0x100 to 0x2FE (20_memory.md rule R72). -/
theorem slotAddr_eq (sp : Byte) : slotAddr sp = 0x100 + 2 * sp.toNat := rfl

theorem slotAddr_bounds (sp : Byte) : 0x100 ≤ slotAddr sp ∧ slotAddr sp ≤ 0x2FE := by
  have := sp.isLt
  rw [slotAddr_eq]; omega

/-- What a push does to each byte: the two bytes of the new slot, high byte first (42_control_flow.md rule R170). -/
theorem State.readByte_push (s : State) (w : Word) (k : Nat) :
    (s.push w).readByte k =
      if k % 4096 = slotAddr (s.sp + 1#8) then w.extractLsb' 8 8
      else if k % 4096 = slotAddr (s.sp + 1#8) + 1 then w.extractLsb' 0 8
      else s.readByte k := by
  have hb := slotAddr_bounds (s.sp + 1#8)
  have hr : ∀ a, ({ s with sp := s.sp + 1#8 } : State).readByte a = s.readByte a := fun _ => rfl
  have hp : (s.push w).readByte k =
      (({ s with sp := s.sp + 1#8 } : State).writeWord (slotAddr (s.sp + 1#8)) w).readByte k := rfl
  rw [hp, State.writeWord, State.readByte_writeByte, State.readByte_writeByte, hr]
  have e1 : slotAddr (s.sp + 1#8) % 4096 = slotAddr (s.sp + 1#8) := by omega
  have e2 : (slotAddr (s.sp + 1#8) + 1) % 4096 = slotAddr (s.sp + 1#8) + 1 := by omega
  rw [e1, e2]
  by_cases h1 : k % 4096 = slotAddr (s.sp + 1#8) + 1
  · rw [if_pos h1, if_neg (by omega), if_pos h1]
  · rw [if_neg h1, if_neg h1]

/-! ### Timers -/

/-- At most one tick per step, when a whole period has accumulated (60_exceptions.md rule R265, decision D20). -/
theorem timerTicks_eq (acc : Nat) : timerTicks acc = if 16666666 ≤ acc then 1 else 0 := rfl

theorem countDown_zero (t : Byte) : countDown 0 t = t := by
  simp [countDown]

/-- One tick: down by one, floored at zero (60_exceptions.md rule R266). -/
theorem countDown_one_toNat (t : Byte) : (countDown 1 t).toNat = t.toNat - 1 := by
  have := t.isLt
  simp only [countDown, BitVec.toNat_ofNat]
  omega

theorem State.timerUpdate_none {s : State} (h : s.tsRef = none) (now : Nat) : s.timerUpdate now = s := by
  unfold State.timerUpdate; rw [h]

theorem State.timerUpdate_some {s : State} {t : Nat} (h : s.tsRef = some t) (now : Nat) :
    s.timerUpdate now = s.runTimers (s.accNs + (now - t)) := by
  unfold State.timerUpdate; rw [h]

/-- The bookkeeping of a step as one update of its start state: the grid decayed, the clock sampled, the timers run on what
has accumulated (40_step_cycle.md rule R120 actions (a) and (b)). -/
theorem State.bookkeep_eq (s : State) :
    s.bookkeep = (s.decayTick.sampleClock).timerUpdate (s.inputs.clockNs + s.inputs.nextElapsed) := rfl

@[simp] theorem State.readByte_bookkeep (s : State) (a : Nat) : s.bookkeep.readByte a = s.readByte a :=
  State.readByte_congr (State.bookkeep_mem s) a

@[simp] theorem State.getV_bookkeep (s : State) (x : Reg) : s.bookkeep.getV x = s.getV x :=
  State.getV_congr (State.bookkeep_v s) x

@[simp] theorem State.fetchHi_bookkeep (s : State) : s.bookkeep.fetchHi = s.fetchHi := by
  simp [State.fetchHi]

@[simp] theorem State.fetchLo_bookkeep (s : State) : s.bookkeep.fetchLo = s.fetchLo := by
  simp [State.fetchLo]

/-! ### Inputs -/

theorem Inputs.clock_le_sampleClock (n : Inputs) : n.clockNs ≤ n.sampleClock.clockNs := Nat.le_add_right _ _

theorem Inputs.nextElapsed_cons (n : Inputs) (e : Nat) (es : List Nat) (h : n.elapsed = e :: es) : n.nextElapsed = e := by
  simp [Inputs.nextElapsed, h]

theorem Inputs.nextRandom_cons (n : Inputs) (r : Byte) (rs : List Byte) (h : n.random = r :: rs) : n.nextRandom = r := by
  simp [Inputs.nextRandom, h]

theorem Inputs.nextKey_cons (n : Inputs) (keys : Vector Bool 16) (ks : List (Vector Bool 16)) (h : n.keypad = keys :: ks)
    (k : Fin 16) : n.nextKey k = keys[k.val] := by
  simp [Inputs.nextKey, h]

end Sys2Proof.Machine
end

