-- ==== Sys2Proof/Laws/Display.lean ====
section
/-! SUPPORT. The display: pixels of an updated grid, and the sprite loops as one equation per pixel. -/

namespace Sys2Proof.Machine

@[simp] theorem getElem_mapVector {α β : Type} {n : Nat} (f : α → β) (v : Vector α n) (k : Nat) (h : k < n) :
    (mapVector f v)[k] = f v[k] := by
  simp [mapVector]

@[simp] theorem Grid.pixel_setAt_same (g : Grid) (r : Fin 32) (c : Fin 64) (p : Pixel) : (g.setAt r c p).pixel r c = p := by
  simp [Grid.pixel, Grid.setAt]

theorem Grid.pixel_setAt (g : Grid) (r r' : Fin 32) (c c' : Fin 64) (p : Pixel) :
    (g.setAt r c p).pixel r' c' = if r' = r ∧ c' = c then p else g.pixel r' c' := by
  by_cases hr : r' = r
  · subst hr
    by_cases hc : c' = c
    · subst hc; simp
    · have hc' : c.val ≠ c'.val := fun e => hc (Fin.ext e.symm)
      simp [Grid.pixel, Grid.setAt, hc, hc']
  · have hr' : r.val ≠ r'.val := fun e => hr (Fin.ext e.symm)
    simp [Grid.pixel, Grid.setAt, hr, hr']

/-- `SetPixel` touches one pixel (43_display.md rule R192). -/
theorem Grid.pixel_setPixel (g : Grid) (r r' : Fin 32) (c c' : Fin 64) (new : Bool) :
    (g.setPixel r c new).pixel r' c' = if r' = r ∧ c' = c then (g.pixel r c).update new else g.pixel r' c' :=
  Grid.pixel_setAt g r r' c c' _

@[simp] theorem Grid.pixel_dark (r : Fin 32) (c : Fin 64) : Grid.dark.pixel r c = Pixel.dark := by
  simp [Grid.pixel, Grid.dark]

/-- The decay tick acts on every pixel alike (43_display.md rule R199). -/
@[simp] theorem Grid.pixel_decay (g : Grid) (r : Fin 32) (c : Fin 64) : g.decay.pixel r c = (g.pixel r c).decay := by
  simp [Grid.pixel, Grid.decay]

@[simp] theorem Pixel.lit_update (p : Pixel) (new : Bool) : (p.update new).lit = new := by
  unfold Pixel.update
  cases new <;> cases h : p.lit <;> simp [h]

@[simp] theorem Pixel.lit_decay (p : Pixel) : p.decay.lit = p.lit := by
  unfold Pixel.decay; split <;> rfl

/-- A grid is its pixels. -/
theorem Grid.ext_pixel {g h : Grid} (e : ∀ r c, g.pixel r c = h.pixel r c) : g = h := by
  apply Vector.ext
  intro r hr
  apply Vector.ext
  intro c hc
  exact e ⟨r, hr⟩ ⟨c, hc⟩

/-! ### One sprite row

Columns `k < m` done: the pixel `k` columns right of the origin has been updated once, from its old value. -/

theorem spriteColumn_val (b : Byte) (k : Nat) : (spriteColumn b k).val = (b.toNat % 64 + k) % 64 := rfl

theorem spriteRow_val (b : Byte) (j : Nat) : (spriteRow b j).val = (b.toNat % 32 + j) % 32 := rfl

/-- Distance of column `c` to the right of the sprite's origin, around the edge. -/
def columnOffset (b : Byte) (c : Fin 64) : Nat := (c.val + 64 - b.toNat % 64) % 64

/-- Distance of row `r` below the sprite's origin, around the edge. -/
def rowOffset (b : Byte) (r : Fin 32) : Nat := (r.val + 32 - b.toNat % 32) % 32

theorem spriteColumn_eq_iff (b : Byte) {k : Nat} (hk : k < 64) (c : Fin 64) :
    c = spriteColumn b k ↔ columnOffset b c = k := by
  have hc := c.isLt
  rw [Fin.ext_iff, spriteColumn_val]
  unfold columnOffset
  omega

theorem spriteRow_eq_iff (b : Byte) {j : Nat} (hj : j < 32) (r : Fin 32) : r = spriteRow b j ↔ rowOffset b r = j := by
  have hr := r.isLt
  rw [Fin.ext_iff, spriteRow_val]
  unfold rowOffset
  omega

/-- The loop over columns, `m` of them done. -/
def drawColumns (vx : Byte) (r : Fin 32) (b : Byte) (m : Nat) (acc : Grid × Bool) : Grid × Bool :=
  (List.range m).foldl (fun acc k => drawPixel r (spriteColumn vx k) (spriteBit b k) acc) acc

theorem drawColumns_succ (vx : Byte) (r : Fin 32) (b : Byte) (m : Nat) (acc : Grid × Bool) :
    drawColumns vx r b (m + 1) acc =
      drawPixel r (spriteColumn vx m) (spriteBit b m) (drawColumns vx r b m acc) := by
  simp [drawColumns, List.range_succ]

theorem drawColumns_pixel (vx : Byte) (r : Fin 32) (b : Byte) (m : Nat) (hm : m ≤ 64) (acc : Grid × Bool)
    (r' : Fin 32) (c : Fin 64) :
    (drawColumns vx r b m acc).1.pixel r' c =
      if r' = r ∧ columnOffset vx c < m then
        (acc.1.pixel r' c).update ((acc.1.pixel r' c).lit ^^ spriteBit b (columnOffset vx c))
      else acc.1.pixel r' c := by
  induction m with
  | zero => simp [drawColumns]
  | succ m ih =>
    have ih := ih (by omega)
    rw [drawColumns_succ, drawPixel, Grid.pixel_setPixel]
    by_cases hr : r' = r
    · subst hr
      by_cases hc : c = spriteColumn vx m
      · have ho := (spriteColumn_eq_iff vx (by omega) c).1 hc
        have hn : ¬(r' = r' ∧ columnOffset vx c < m) := by omega
        rw [if_neg hn] at ih
        rw [if_pos ⟨rfl, hc⟩, if_pos ⟨rfl, by omega⟩, ← hc, ih, ho]
      · have ho : columnOffset vx c ≠ m := fun e => hc ((spriteColumn_eq_iff vx (by omega) c).2 e)
        rw [if_neg (fun e => hc e.2), ih]
        by_cases h : columnOffset vx c < m
        · rw [if_pos ⟨rfl, h⟩, if_pos ⟨rfl, by omega⟩]
        · rw [if_neg (fun e => h e.2), if_neg (by omega)]
    · rw [if_neg (fun e => hr e.1), ih, if_neg (fun e => hr e.1), if_neg (fun e => hr e.1)]

/-- The collision flag after `m` columns: set before, or some column done collides. -/
theorem drawColumns_flag (vx : Byte) (r : Fin 32) (b : Byte) (m : Nat) (hm : m ≤ 64) (acc : Grid × Bool) :
    (drawColumns vx r b m acc).2 = true ↔
      acc.2 = true ∨ ∃ k, k < m ∧ spriteBit b k = true ∧ (acc.1.pixel r (spriteColumn vx k)).lit = true := by
  induction m with
  | zero => simp [drawColumns]
  | succ m ih =>
    have ih := ih (by omega)
    have ho : columnOffset vx (spriteColumn vx m) = m := (spriteColumn_eq_iff vx (by omega) _).1 rfl
    have hp := drawColumns_pixel vx r b m (by omega) acc r (spriteColumn vx m)
    rw [if_neg (by omega)] at hp
    rw [drawColumns_succ, drawPixel, hp]
    simp only [Bool.or_eq_true, ih, collides]
    constructor
    · rintro ((h | ⟨k, hk, h⟩) | h)
      · exact .inl h
      · exact .inr ⟨k, by omega, h⟩
      · refine .inr ⟨m, by omega, ?_⟩
        revert h
        cases (acc.1.pixel r (spriteColumn vx m)).lit <;> cases spriteBit b m <;> simp
    · rintro (h | ⟨k, hk, h1, h2⟩)
      · exact .inl (.inl h)
      · rcases Nat.lt_or_ge k m with hlt | hge
        · exact .inl (.inr ⟨k, hlt, h1, h2⟩)
        · have : k = m := by omega
          subst this
          right; simp [h1, h2]

theorem drawRow_eq (vx : Byte) (r : Fin 32) (b : Byte) (acc : Grid × Bool) :
    drawRow vx r b acc = drawColumns vx r b 8 acc := rfl

/-! ### All sprite rows -/

theorem drawRows_append (vx vy : Byte) (bytes : List Byte) (b : Byte) (g : Grid) :
    drawRows vx vy (bytes ++ [b]) g =
      drawRow vx (spriteRow vy bytes.length) b (drawRows vx vy bytes g) := by
  simp [drawRows, List.zipIdx_append]

/-- Everything a sprite of at most 32 rows does to a pixel: a pixel at offset `(j, k)` from the origin with `j` a sprite row
and `k < 8` is given its old value XOR the sprite bit by `SetPixel`; every other pixel is as before
(43_display.md rule R194, rule R195, rule R198). -/
theorem drawRows_pixel (vx vy : Byte) (bytes : List Byte) (hl : bytes.length ≤ 32) (g : Grid) (r : Fin 32) (c : Fin 64) :
    (drawRows vx vy bytes g).1.pixel r c =
      if rowOffset vy r < bytes.length ∧ columnOffset vx c < 8 then
        (g.pixel r c).update ((g.pixel r c).lit ^^ spriteBit (bytes.getD (rowOffset vy r) 0#8) (columnOffset vx c))
      else g.pixel r c := by
  induction bytes using List.reverseRecOn with
  | nil => simp [drawRows]
  | append_singleton bytes b ih =>
    have hlen : (bytes ++ [b]).length = bytes.length + 1 := by simp
    rw [hlen] at hl
    have ih := ih (by omega)
    rw [drawRows_append, drawRow_eq, drawColumns_pixel _ _ _ _ (by omega), hlen]
    by_cases hr : r = spriteRow vy bytes.length
    · have ho := (spriteRow_eq_iff vy (by omega) r).1 hr
      rw [if_neg (by omega)] at ih
      have hb : (bytes ++ [b]).getD (rowOffset vy r) 0#8 = b := by rw [ho]; simp [List.getD]
      rw [ih, hb]
      by_cases hc : columnOffset vx c < 8
      · rw [if_pos ⟨hr, hc⟩, if_pos ⟨by omega, hc⟩]
      · rw [if_neg (fun e => hc e.2), if_neg (fun e => hc e.2)]
    · have ho : rowOffset vy r ≠ bytes.length := fun e => hr ((spriteRow_eq_iff vy (by omega) r).2 e)
      rw [if_neg (fun e => hr e.1), ih]
      by_cases h : rowOffset vy r < bytes.length
      · have hb : (bytes ++ [b]).getD (rowOffset vy r) 0#8 = bytes.getD (rowOffset vy r) 0#8 := by
          simp [List.getD, List.getElem?_append_left h]
        rw [hb]
        by_cases hc : columnOffset vx c < 8
        · rw [if_pos ⟨h, hc⟩, if_pos ⟨by omega, hc⟩]
        · rw [if_neg (fun e => hc e.2), if_neg (fun e => hc e.2)]
      · rw [if_neg (fun e => h e.1), if_neg (by omega)]

/-- The collision flag of a sprite of at most 32 rows: some set sprite bit falls on a pixel that was lit before the draw
(43_display.md rule R195, rule R197). -/
theorem drawRows_flag (vx vy : Byte) (bytes : List Byte) (hl : bytes.length ≤ 32) (g : Grid) :
    (drawRows vx vy bytes g).2 = true ↔
      ∃ j k, j < bytes.length ∧ k < 8 ∧ spriteBit (bytes.getD j 0#8) k = true ∧
        (g.pixel (spriteRow vy j) (spriteColumn vx k)).lit = true := by
  induction bytes using List.reverseRecOn with
  | nil => simp [drawRows]
  | append_singleton bytes b ih =>
    have hlen : (bytes ++ [b]).length = bytes.length + 1 := by simp
    rw [hlen] at hl
    have ih := ih (by omega)
    have hlast : (bytes ++ [b]).getD bytes.length 0#8 = b := by simp [List.getD]
    have hfront : ∀ j, j < bytes.length → (bytes ++ [b]).getD j 0#8 = bytes.getD j 0#8 := fun j hj => by
      simp [List.getD, List.getElem?_append_left hj]
    have hold : ∀ k, (drawRows vx vy bytes g).1.pixel (spriteRow vy bytes.length) (spriteColumn vx k) =
        g.pixel (spriteRow vy bytes.length) (spriteColumn vx k) := fun k => by
      have ho := (spriteRow_eq_iff vy (j := bytes.length) (by omega) _).1 rfl
      rw [drawRows_pixel vx vy bytes (by omega), if_neg (by omega)]
    rw [drawRows_append, drawRow_eq, drawColumns_flag _ _ _ _ (by omega), ih, hlen]
    simp only [hold]
    constructor
    · rintro (⟨j, k, hj, h⟩ | ⟨k, hk, h1, h2⟩)
      · exact ⟨j, k, by omega, by rw [hfront j hj]; exact h⟩
      · exact ⟨bytes.length, k, by omega, hk, by rw [hlast]; exact h1, h2⟩
    · rintro ⟨j, k, hj, hk, h1, h2⟩
      rcases Nat.lt_or_ge j bytes.length with hlt | hge
      · exact .inl ⟨j, k, hlt, hk, by rw [← hfront j hlt]; exact h1, h2⟩
      · have : j = bytes.length := by omega
        subst this
        exact .inr ⟨k, hk, by rw [hlast] at h1; exact h1, h2⟩

@[simp] theorem State.length_spriteBytes (s : State) (n : Nat) : (s.spriteBytes n).length = n := by
  simp [State.spriteBytes]

/-- Sprite row `j` is the byte at `I + j` (43_display.md rule R196). -/
theorem State.getD_spriteBytes (s : State) {n j : Nat} (h : j < n) :
    (s.spriteBytes n).getD j 0#8 = s.readByte (s.i.toNat + j) := by
  simp [State.spriteBytes, List.getD, List.getElem?_map, List.getElem?_range h, State.elemAddr]

end Sys2Proof.Machine
end

