-- ==== Sys2Proof/Laws/PerInstr.lean ====
section
/-! SUPPORT. Per instruction: the word the encoder writes selects the opcode-table row that carries the instruction's mnemonic. -/

namespace Sys2Proof.Laws.SelectsRow

/-- The mnemonic of an instruction's row, as spec/opcode_table.json spells it. -/
def mnemonicOf : Instr → String
  | .cls => "CLS"
  | .ret => "RET"
  | .hrcls => "HRCLS"
  | .jp _ => "JP_nnn"
  | .call _ => "CALL_nnn"
  | .seImm _ _ => "SE_Vx__kk"
  | .sneImm _ _ => "SNE_Vx__kk"
  | .seReg _ _ => "SE_Vx__Vy"
  | .ldImm _ _ => "LD_Vx__kk"
  | .addImm _ _ => "ADD_Vx__kk"
  | .ldReg _ _ => "LD_Vx__Vy"
  | .orReg _ _ => "OR_Vx__Vy"
  | .andReg _ _ => "AND_Vx__Vy"
  | .xorReg _ _ => "XOR_Vx__Vy"
  | .addReg _ _ => "ADD_Vx__Vy"
  | .subReg _ _ => "SUB_Vx__Vy"
  | .shr _ _ => "SHR_Vx"
  | .subnReg _ _ => "SUBN_Vx__Vy"
  | .shl _ _ => "SHL_Vx"
  | .sneReg _ _ => "SNE_Vx__Vy"
  | .ldI _ => "LD_I__nnn"
  | .jpV0 _ => "JP_V0__nnn"
  | .rnd _ _ => "RND_Vx__kk"
  | .drw _ _ _ => "DRW_Vx__Vy__n"
  | .skp _ => "SKP_Vx"
  | .sknp _ => "SKNP_Vx"
  | .ldVxDt _ => "LD_Vx__DT"
  | .ldDtVx _ => "LD_DT__Vx"
  | .ldStVx _ => "LD_ST__Vx"
  | .addI _ => "ADD_I__Vx"
  | .ldF _ => "LD_F__Vx"
  | .ldB _ => "LD_B__Vx"
  | .storeRegs _ => "LD__I___Vx"
  | .loadRegs _ => "LD_Vx___I"

/-- Some row of the opcode map carries the instruction's mnemonic and is selected by its word. -/
def Statement (i : Instr) : Prop := ∃ r ∈ opcodeRows, r.mnemonic = mnemonicOf i ∧ r.matches (encode i) = true

/-- Row `k` of the map, by its number. -/
theorem of_row {i : Instr} (k : Nat) (hk : k < opcodeRows.length) (hn : opcodeRows[k].mnemonic = mnemonicOf i)
    (he : encode i &&& opcodeRows[k].mask = opcodeRows[k].value) : Statement i :=
  ⟨opcodeRows[k], List.getElem_mem hk, hn, (Row.matches_iff _ _).2 he⟩

theorem cls : Statement (.cls) := of_row 0 (by decide) rfl (by decide)

theorem ret : Statement (.ret) := of_row 1 (by decide) rfl (by decide)

theorem hrcls : Statement (.hrcls) := of_row 2 (by decide) rfl (by decide)

theorem jp (nnn : Addr12) : Statement (.jp nnn) := of_row 3 (by decide) rfl (packNNN_and _ nnn)

theorem call (nnn : Addr12) : Statement (.call nnn) := of_row 4 (by decide) rfl (packNNN_and _ nnn)

theorem seImm (x : Reg) (kk : Byte) : Statement (.seImm x kk) := of_row 5 (by decide) rfl (packXKK_and _ x kk)

theorem sneImm (x : Reg) (kk : Byte) : Statement (.sneImm x kk) := of_row 6 (by decide) rfl (packXKK_and _ x kk)

theorem seReg (x y : Reg) : Statement (.seReg x y) := of_row 7 (by decide) rfl (packXY_and_low _ x y _)

theorem ldImm (x : Reg) (kk : Byte) : Statement (.ldImm x kk) := of_row 8 (by decide) rfl (packXKK_and _ x kk)

theorem addImm (x : Reg) (kk : Byte) : Statement (.addImm x kk) := of_row 9 (by decide) rfl (packXKK_and _ x kk)

theorem ldReg (x y : Reg) : Statement (.ldReg x y) := of_row 15 (by decide) rfl (packXY_and_low _ x y _)

theorem orReg (x y : Reg) : Statement (.orReg x y) := of_row 16 (by decide) rfl (packXY_and_low _ x y _)

theorem andReg (x y : Reg) : Statement (.andReg x y) := of_row 17 (by decide) rfl (packXY_and_low _ x y _)

theorem xorReg (x y : Reg) : Statement (.xorReg x y) := of_row 18 (by decide) rfl (packXY_and_low _ x y _)

theorem addReg (x y : Reg) : Statement (.addReg x y) := of_row 19 (by decide) rfl (packXY_and_low _ x y _)

theorem subReg (x y : Reg) : Statement (.subReg x y) := of_row 20 (by decide) rfl (packXY_and_low _ x y _)

theorem shr (x y : Reg) : Statement (.shr x y) := of_row 21 (by decide) rfl (packXY_and_low _ x y _)

theorem subnReg (x y : Reg) : Statement (.subnReg x y) := of_row 22 (by decide) rfl (packXY_and_low _ x y _)

theorem shl (x y : Reg) : Statement (.shl x y) := of_row 23 (by decide) rfl (packXY_and_low _ x y _)

theorem sneReg (x y : Reg) : Statement (.sneReg x y) := of_row 10 (by decide) rfl (packXY_and_low _ x y _)

theorem ldI (nnn : Addr12) : Statement (.ldI nnn) := of_row 11 (by decide) rfl (packNNN_and _ nnn)

theorem jpV0 (nnn : Addr12) : Statement (.jpV0 nnn) := of_row 12 (by decide) rfl (packNNN_and _ nnn)

theorem rnd (x : Reg) (kk : Byte) : Statement (.rnd x kk) := of_row 13 (by decide) rfl (packXKK_and _ x kk)

theorem drw (x y : Reg) (n : Nat) : Statement (.drw x y n) := of_row 14 (by decide) rfl (packXY_and _ x y _)

theorem skp (x : Reg) : Statement (.skp x) := of_row 24 (by decide) rfl (packXKK_and_low _ x _)

theorem sknp (x : Reg) : Statement (.sknp x) := of_row 25 (by decide) rfl (packXKK_and_low _ x _)

theorem ldVxDt (x : Reg) : Statement (.ldVxDt x) := of_row 26 (by decide) rfl (packXKK_and_low _ x _)

theorem ldDtVx (x : Reg) : Statement (.ldDtVx x) := of_row 27 (by decide) rfl (packXKK_and_low _ x _)

theorem ldStVx (x : Reg) : Statement (.ldStVx x) := of_row 28 (by decide) rfl (packXKK_and_low _ x _)

theorem addI (x : Reg) : Statement (.addI x) := of_row 29 (by decide) rfl (packXKK_and_low _ x _)

theorem ldF (x : Reg) : Statement (.ldF x) := of_row 30 (by decide) rfl (packXKK_and_low _ x _)

theorem ldB (x : Reg) : Statement (.ldB x) := of_row 31 (by decide) rfl (packXKK_and_low _ x _)

theorem storeRegs (x : Reg) : Statement (.storeRegs x) := of_row 32 (by decide) rfl (packXKK_and_low _ x _)

theorem loadRegs (x : Reg) : Statement (.loadRegs x) := of_row 33 (by decide) rfl (packXKK_and_low _ x _)

end Sys2Proof.Laws.SelectsRow
end

