-- ==== Sys2Proof/Laws/Step.lean ====
section
/-! SUPPORT. What a step can do, once (40_step_cycle.md rule R120), and the frame in a form that is easy to prove. -/

namespace Sys2Proof.Machine

open Sys2Proof.Safety

/-- Every matched instruction answers a next state (60_exceptions.md rule R251). -/
theorem exec_next (i : Instr) (s : State) : ∃ t, exec i s = .next t := by
  cases i <;> exact ⟨_, rfl⟩

/-- A step of a running core that decodes: the instruction runs on the bookkept state past its word, then the reference
timestamp is refreshed. -/
theorem step_of_decode {s : State} {i : Instr} (hr : s.halted = false) (hd : decode s.fetchHi s.fetchLo = .ok i) :
    step s = endStep (exec i s.bookkeep.advancePc) := by
  unfold step
  rw [if_neg (by simp [hr]), State.fetchHi_bookkeep, State.fetchLo_bookkeep, hd]

/-- A step of a running core that does not decode: the fault, after the bookkeeping and the fetch. -/
theorem step_of_reject {s : State} (hr : s.halted = false)
    (hd : decode s.fetchHi s.fetchLo = .error (.unknownOpcode s.fetchHi s.fetchLo)) :
    step s = .next (s.bookkeep.advancePc.raiseUnknownOpcode s.fetchHi s.fetchLo) := by
  unfold step
  rw [if_neg (by simp [hr]), State.fetchHi_bookkeep, State.fetchLo_bookkeep, hd]

theorem step_of_halted {s : State} (h : s.halted = true) : step s = .fault (.halted s.faultHi s.faultLo) := by
  unfold step; rw [if_pos h]

/-- Everything a step that answers a next state can do. -/
theorem step_cases {s t : State} (h : step s = .next t) :
    s.halted = false ∧
      ((∃ i u, decode s.fetchHi s.fetchLo = .ok i ∧ exec i s.bookkeep.advancePc = .next u ∧ t = u.refreshRef) ∨
       (decode s.fetchHi s.fetchLo = .error (.unknownOpcode s.fetchHi s.fetchLo) ∧
        t = s.bookkeep.advancePc.raiseUnknownOpcode s.fetchHi s.fetchLo)) := by
  cases hh : s.halted with
  | true => rw [step_of_halted hh] at h; cases h
  | false =>
    refine ⟨rfl, ?_⟩
    rcases decode_cases s.fetchHi s.fetchLo with ⟨r, _, _, hd⟩ | ⟨_, hd⟩
    · obtain ⟨u, hu⟩ := exec_next (r.build (s.fetchHi ++ s.fetchLo)) s.bookkeep.advancePc
      rw [step_of_decode hh hd, hu] at h
      cases h
      exact .inl ⟨_, u, hd, hu, rfl⟩
    · rw [step_of_reject hh hd] at h
      cases h
      exact .inr ⟨hd, rfl⟩

/-! ### Frames -/

/-- Nothing changed is a frame whatever it allows. -/
theorem onlyChanges_refl (may : Piece → Prop) (s : State) : OnlyChanges may s s := by
  intro p _
  cases p <;> simp [Piece.same]

/-- Frames compose. -/
theorem onlyChanges_trans {may : Piece → Prop} {s t u : State} (h : OnlyChanges may s t) (k : OnlyChanges may t u) :
    OnlyChanges may s u := by
  intro p hp
  have h1 := h p hp
  have h2 := k p hp
  cases p <;> simp only [Piece.same] at * <;> first | exact h2.trans h1 | simp_all

theorem onlyChanges_mono {may may' : Piece → Prop} {s t : State} (h : OnlyChanges may s t) (hm : ∀ p, may p → may' p) :
    OnlyChanges may' s t := fun p hp => h p fun e => hp (hm p e)

/-- A register write changes that register. -/
theorem onlyChanges_setV (s : State) (x : Reg) (b : Byte) : OnlyChanges (fun p => p = .v x) s (s.setV x b) := by
  intro p hp
  cases p with
  | v k => exact State.getV_setV_ne s b fun e => hp (by rw [e])
  | _ => simp [Piece.same, State.readByte_congr (State.setV_mem s x b)]

/-- A change of `PC` changes `PC`. -/
theorem onlyChanges_setPc (s : State) (w : Word) : OnlyChanges (fun p => p = .pc) s (s.setPc w) := by
  intro p hp
  cases p with
  | pc => exact absurd rfl hp
  | _ => simp [Piece.same, State.getV_congr (State.setPc_v s w), State.readByte_congr (State.setPc_mem s w)]

/-- A change of `I` changes `I`. -/
theorem onlyChanges_setI (s : State) (w : Word) : OnlyChanges (fun p => p = .i) s (s.setI w) := by
  intro p hp
  cases p with
  | i => exact absurd rfl hp
  | _ => simp [Piece.same, State.getV_congr (State.setI_v s w), State.readByte_congr (State.setI_mem s w)]

/-- A block store changes the bytes stored to. -/
theorem onlyChanges_storeBytes (s : State) (a : Nat) (bs : List Byte) (hl : bs.length ≤ 4096) :
    OnlyChanges (fun p => ∃ j k, j < bs.length ∧ p = .mem k ∧ k.val = busAddr (a + j)) s (s.storeBytes a bs) := by
  intro p hp
  cases p with
  | mem k =>
    simp only [Piece.same]
    rw [State.readByte_storeBytes s a bs hl, if_neg]
    intro hlt
    refine hp ⟨_, k, hlt, rfl, ?_⟩
    have := k.isLt
    unfold busAddr memSize
    omega
  | v k => exact State.getV_congr (State.storeBytes_v s a bs) k
  | _ => simp [Piece.same]

end Sys2Proof.Machine
end

