-- ==== Sys2Proof/Tests/Slice0.lean ====
section
/-! SUPPORT. The model's own tests. Expected values are those of 95_test_vectors.md (the vector's id in the comment) or worked out
by hand from the rule named; words are written out from 30_encoding.md. -/

namespace Sys2Proof.Tests

open Sys2Proof.Machine Sys2Proof.Safety

set_option maxRecDepth 20000

/-! ### WellFormed: the one check, and a term it refuses -/

theorem test_wf_drw_sixteen_rows_refused : (Instr.drw 0 1 16).wellFormed = false := by decide

theorem test_wf_drw_fifteen_rows : (Instr.drw 0 1 15).wellFormed = true := by decide

/-! ### Decode: a written-out word for every constructor -/

theorem test_decode_cls : decode 0x00#8 0xE0#8 = .ok .cls := by decide
theorem test_decode_ret : decode 0x00#8 0xEE#8 = .ok .ret := by decide
theorem test_decode_hrcls : decode 0x02#8 0x30#8 = .ok .hrcls := by decide
theorem test_decode_jp : decode 0x1A#8 0xBC#8 = .ok (.jp 0xABC#12) := by decide
theorem test_decode_call : decode 0x22#8 0x06#8 = .ok (.call 0x206#12) := by decide
theorem test_decode_seImm : decode 0x31#8 0x0A#8 = .ok (.seImm 1 0x0A#8) := by decide
theorem test_decode_sneImm : decode 0x4F#8 0x80#8 = .ok (.sneImm 15 0x80#8) := by decide
theorem test_decode_seReg : decode 0x5A#8 0xB0#8 = .ok (.seReg 10 11) := by decide
theorem test_decode_ldImm : decode 0x6F#8 0x7B#8 = .ok (.ldImm 15 0x7B#8) := by decide
theorem test_decode_addImm : decode 0x73#8 0x05#8 = .ok (.addImm 3 0x05#8) := by decide
theorem test_decode_ldReg : decode 0x80#8 0x10#8 = .ok (.ldReg 0 1) := by decide
theorem test_decode_orReg : decode 0x82#8 0x31#8 = .ok (.orReg 2 3) := by decide
theorem test_decode_andReg : decode 0x84#8 0x52#8 = .ok (.andReg 4 5) := by decide
theorem test_decode_xorReg : decode 0x86#8 0x73#8 = .ok (.xorReg 6 7) := by decide
theorem test_decode_addReg : decode 0x88#8 0x94#8 = .ok (.addReg 8 9) := by decide
theorem test_decode_subReg : decode 0x8C#8 0xD5#8 = .ok (.subReg 12 13) := by decide
theorem test_decode_shr : decode 0x8E#8 0xF6#8 = .ok (.shr 14 15) := by decide
theorem test_decode_subnReg : decode 0x81#8 0x27#8 = .ok (.subnReg 1 2) := by decide
theorem test_decode_shl : decode 0x8A#8 0xBE#8 = .ok (.shl 10 11) := by decide
theorem test_decode_sneReg : decode 0x9C#8 0x30#8 = .ok (.sneReg 12 3) := by decide
theorem test_decode_ldI : decode 0xA2#8 0x0A#8 = .ok (.ldI 0x20A#12) := by decide
theorem test_decode_jpV0 : decode 0xBF#8 0xFF#8 = .ok (.jpV0 0xFFF#12) := by decide
theorem test_decode_rnd : decode 0xC2#8 0x3F#8 = .ok (.rnd 2 0x3F#8) := by decide
theorem test_decode_drw : decode 0xD7#8 0xA3#8 = .ok (.drw 7 10 3) := by decide
theorem test_decode_skp : decode 0xE1#8 0x9E#8 = .ok (.skp 1) := by decide
theorem test_decode_sknp : decode 0xE0#8 0xA1#8 = .ok (.sknp 0) := by decide
theorem test_decode_ldVxDt : decode 0xF3#8 0x07#8 = .ok (.ldVxDt 3) := by decide
theorem test_decode_ldDtVx : decode 0xF4#8 0x15#8 = .ok (.ldDtVx 4) := by decide
theorem test_decode_ldStVx : decode 0xF5#8 0x18#8 = .ok (.ldStVx 5) := by decide
theorem test_decode_addI : decode 0xF2#8 0x1E#8 = .ok (.addI 2) := by decide
theorem test_decode_ldF : decode 0xF6#8 0x29#8 = .ok (.ldF 6) := by decide
theorem test_decode_ldB : decode 0xF7#8 0x33#8 = .ok (.ldB 7) := by decide
theorem test_decode_storeRegs : decode 0xFF#8 0x55#8 = .ok (.storeRegs 15) := by decide
theorem test_decode_loadRegs : decode 0xF5#8 0x65#8 = .ok (.loadRegs 5) := by decide

/-- Words of rule R101, one of each line of its table (V-FLT-1, V-FLT-4, V-FLT-6, V-FLT-7, V-FLT-9, V-FLT-10, V-FLT-13). -/
theorem test_decode_rejects :
    [(0x00#8, 0x00#8), (0x50#8, 0x11#8), (0x81#8, 0x2F#8), (0x9A#8, 0xB1#8), (0xE1#8, 0x9F#8), (0xF0#8, 0x0A#8),
      (0x00#8, 0xFD#8)].map (fun b => decode b.1 b.2) =
    [.error (.unknownOpcode 0x00#8 0x00#8), .error (.unknownOpcode 0x50#8 0x11#8), .error (.unknownOpcode 0x81#8 0x2F#8),
      .error (.unknownOpcode 0x9A#8 0xB1#8), .error (.unknownOpcode 0xE1#8 0x9F#8), .error (.unknownOpcode 0xF0#8 0x0A#8),
      .error (.unknownOpcode 0x00#8 0xFD#8)] := by decide

/-- The table word 0x6F7B: high byte first. -/
theorem test_decodeTableWord : decodeTableWord 16 0x6F7B = some (.ldImm 15 0x7B#8) := by decide

/-- `DRW V7, VA, 3` is the word D7A3 (V-DEC-1). -/
theorem test_encode_drw : encode (.drw 7 10 3) = 0xD7A3#16 := by decide

/-! ### One step -/

/-- `f` of the state after one step with the word `w` at `PC`. -/
def after {α : Type} (w : Nat) (s : State) (f : State → α) : Option α :=
  match step (s.withFetchWord 16 w) with
  | .next t => some (f t)
  | _ => none

/-- Reset with some registers set. -/
def regs (l : List (Reg × Byte)) : State := l.foldl (fun s p => s.setV p.1 p.2) State.reset

/-- Columns of row `r` that are lit. -/
def litColumns (s : State) (r : Fin 32) : List Nat := (List.range 64).filter fun c => (s.grid.pixel r (Fin.ofNat 64 c)).lit

/-- V-ALU-1 -/
theorem test_ldImm_vf : after 0x6F7B State.reset (fun t => (t.getV 15, t.pc)) = some (0x7B#8, 0x0202#16) := by decide

/-- V-ALU-2: no carry recorded. -/
theorem test_addImm_no_carry : after 0x70FF (regs [(0, 0x02#8), (15, 0x55#8)]) (fun t => (t.getV 0, t.getV 15)) =
    some (0x01#8, 0x55#8) := by decide

/-- V-ALU-4 -/
theorem test_ldReg : after 0x8010 (regs [(1, 0x7C#8)]) (fun t => (t.getV 0, t.getV 1)) = some (0x7C#8, 0x7C#8) := by decide

/-- V-ALU-5: VF unchanged. -/
theorem test_or_keeps_vf : after 0x8011 (regs [(0, 0x0F#8), (1, 0xF0#8), (15, 0x01#8)]) (fun t => (t.getV 0, t.getV 15)) =
    some (0xFF#8, 0x01#8) := by decide

/-- V-ALU-6 -/
theorem test_and : after 0x8012 (regs [(0, 0xF0#8), (1, 0x3C#8)]) (fun t => t.getV 0) = some 0x30#8 := by decide

/-- rule R147, its example. -/
theorem test_xor : after 0x8013 (regs [(0, 0xF0#8), (1, 0x3C#8)]) (fun t => t.getV 0) = some 0xCC#8 := by decide

/-- V-ALU-9: a sum of 255 is no carry. -/
theorem test_add_255 : after 0x8014 (regs [(0, 0xFF#8), (15, 0x01#8)]) (fun t => (t.getV 0, t.getV 15)) =
    some (0xFF#8, 0x00#8) := by decide

/-- V-ALU-11: the flag overwrites the sum in VF. -/
theorem test_add_into_vf : after 0x8F14 (regs [(15, 0xF0#8), (1, 0x20#8)]) (fun t => t.getV 15) = some 0x01#8 := by decide

/-- V-ALU-14 -/
theorem test_sub_borrow : after 0x8015 (regs [(0, 0x05#8), (1, 0x0A#8), (15, 0x01#8)]) (fun t => (t.getV 0, t.getV 15)) =
    some (0xFB#8, 0x00#8) := by decide

/-- V-ALU-15: flag 0 at the tie. -/
theorem test_sub_tie : after 0x8015 (regs [(0, 0x33#8), (1, 0x33#8), (15, 0x01#8)]) (fun t => (t.getV 0, t.getV 15)) =
    some (0x00#8, 0x00#8) := by decide

/-- V-ALU-22: y ignored. -/
theorem test_shr_ignores_y : after 0x8016 (regs [(0, 0x03#8), (1, 0xF0#8)]) (fun t => (t.getV 0, t.getV 15, t.getV 1)) =
    some (0x01#8, 0x01#8, 0xF0#8) := by decide

/-- V-ALU-19 -/
theorem test_subn : after 0x8017 (regs [(0, 0x05#8), (1, 0x0A#8)]) (fun t => (t.getV 0, t.getV 15)) =
    some (0x05#8, 0x01#8) := by decide

/-- V-ALU-21: flag 0 at the tie. -/
theorem test_subn_tie : after 0x8017 (regs [(0, 0x33#8), (1, 0x33#8), (15, 0x01#8)]) (fun t => (t.getV 0, t.getV 15)) =
    some (0x00#8, 0x00#8) := by decide

/-- V-ALU-26 -/
theorem test_shl : after 0x800E (regs [(0, 0x7F#8), (15, 0x01#8)]) (fun t => (t.getV 0, t.getV 15)) =
    some (0xFE#8, 0x00#8) := by decide

/-- V-ALU-28: the flag overwrites the result in VF. -/
theorem test_shl_into_vf : after 0x8F0E (regs [(15, 0x81#8)]) (fun t => t.getV 15) = some 0x01#8 := by decide

/-- V-CF-1 -/
theorem test_jp : after 0x1ABC State.reset (fun t => t.pc) = some 0x0ABC#16 := by decide

/-- V-CF-4: past 0x0FFF. -/
theorem test_jpV0 : after 0xBFFF (regs [(0, 0x02#8)]) (fun t => t.pc) = some 0x1001#16 := by decide

/-- V-CF-8: the 128th slot overwrites the CALL itself. -/
theorem test_call_slot_128 : after 0x2300 { State.reset with sp := 0x7F#8 }
    (fun t => (t.sp, t.readByte 0x200, t.readByte 0x201, t.pc)) = some (0x80#8, 0x02#8, 0x02#8, 0x0300#16) := by decide

/-- V-CF-9: SP wraps to slot 0x100; 0x2FE is untouched. -/
theorem test_call_wraps : after 0x2300 { State.reset with sp := 0xFF#8 }
    (fun t => (t.sp, t.readByte 0x100, t.readByte 0x101, t.readByte 0x2FE)) = some (0x00#8, 0x02#8, 0x02#8, 0x00#8) := by
  decide

/-- V-CF-7: RET on an empty stack. -/
theorem test_ret_empty : after 0x00EE State.reset (fun t => (t.pc, t.sp)) = some (0x0000#16, 0xFF#8) := by decide

/-- V-CF-11: all 16 bits are loaded. -/
theorem test_ret_16_bits : after 0x00EE (({ State.reset with sp := 0x01#8 } : State).writeWord 0x102 0xFFFE#16)
    (fun t => (t.pc, t.sp)) = some (0xFFFE#16, 0x00#8) := by decide

/-- V-CF-12, V-CF-13 -/
theorem test_seImm : after 0x310A (regs [(1, 0x0A#8)]) (fun t => t.pc) = some 0x0204#16 ∧
    after 0x310A (regs [(1, 0x0B#8)]) (fun t => t.pc) = some 0x0202#16 := by decide

/-- V-CF-14, V-CF-15 -/
theorem test_sneImm : after 0x410A (regs [(1, 0x0A#8)]) (fun t => t.pc) = some 0x0202#16 ∧
    after 0x410A (regs [(1, 0x0B#8)]) (fun t => t.pc) = some 0x0204#16 := by decide

/-- V-CF-16, V-CF-17 -/
theorem test_seReg : after 0x5010 (regs [(0, 0x33#8), (1, 0x33#8)]) (fun t => t.pc) = some 0x0204#16 ∧
    after 0x5010 (regs [(0, 0x33#8), (1, 0x34#8)]) (fun t => t.pc) = some 0x0202#16 := by decide

/-- V-CF-19, V-CF-20 -/
theorem test_sneReg : after 0x9010 (regs [(0, 0x33#8), (1, 0x34#8)]) (fun t => t.pc) = some 0x0204#16 ∧
    after 0x9010 (regs [(0, 0x33#8), (1, 0x33#8)]) (fun t => t.pc) = some 0x0202#16 := by decide

/-- A clear screen with one lit pixel at (5, 7). -/
def onePixel : State := { State.reset with grid := State.reset.grid.setPixel 5 7 true }

/-- rule R190, its example: (5, 7) goes dark with phase 0, and so does a pixel that had been dark (its phase was ticked). -/
theorem test_cls : after 0x00E0 onePixel (fun t => (t.grid.pixel 5 7, t.grid.pixel 0 0)) =
    some (⟨false, 0⟩, ⟨false, 0⟩) := by decide

/-- V-DRW-8 for HRCLS. -/
theorem test_hrcls : after 0x0230 onePixel (fun t => (t.grid.pixel 5 7, t.getV 15)) = some (⟨false, 0⟩, 0x00#8) := by decide

/-- V-DRW-3: three rows, wrapped in both directions. -/
theorem test_drw_wraps : after 0xD013
    ((({ regs [(0, 0x3C#8), (1, 0x1E#8)] with i := 0x0300#16 } : State).writeWord 0x300 0xFF81#16).writeByte 0x302 0xFF#8)
    (fun t => (t.getV 15, litColumns t 30, litColumns t 31, litColumns t 0, litColumns t 1)) =
    some (0x00#8, [0, 1, 2, 3, 60, 61, 62, 63], [3, 60], [0, 1, 2, 3, 60, 61, 62, 63], []) := by decide

/-- V-DRW-2 in small: (5, 7) is hit by the leftmost bit of glyph row F0, goes dark with phase 0, VF = 1. -/
theorem test_drw_collision : after 0xD011 { onePixel.setV 0 0x07#8 |>.setV 1 0x05#8 with i := 0x0000#16 }
    (fun t => (t.getV 15, t.grid.pixel 5 7, (t.grid.pixel 5 8).lit)) = some (0x01#8, ⟨false, 0⟩, true) := by decide

/-- V-IDX-1 -/
theorem test_ldI : after 0xAFFF State.reset (fun t => t.i) = some 0x0FFF#16 := by decide

/-- V-IDX-2, V-IDX-3 -/
theorem test_addI : after 0xF01E { regs [(0, 0x01#8), (15, 0x07#8)] with i := 0x0FFF#16 } (fun t => (t.i, t.getV 15)) =
      some (0x1000#16, 0x07#8) ∧
    after 0xF01E { regs [(0, 0x01#8)] with i := 0xFFFF#16 } (fun t => t.i) = some 0x0000#16 := by decide

/-- V-IDX-5: the whole byte. -/
theorem test_ldF : after 0xF029 (regs [(0, 0xFF#8)]) (fun t => t.i) = some 0x04FB#16 := by decide

/-- V-MEM-2: the third digit wraps over the first font byte. -/
theorem test_ldB_wraps : after 0xF033 { regs [(0, 0xC7#8)] with i := 0x0FFE#16 }
    (fun t => (t.readByte 0xFFE, t.readByte 0xFFF, t.readByte 0x000, t.i)) = some (0x01#8, 0x09#8, 0x09#8, 0x0FFE#16) := by
  decide

/-- V-MEM-5: V2 is not stored, I is unchanged. -/
theorem test_storeRegs : after 0xF155 { regs [(0, 0x11#8), (1, 0x22#8), (2, 0x33#8)] with i := 0x0400#16 }
    (fun t => (t.readByte 0x400, t.readByte 0x401, t.readByte 0x402, t.i)) = some (0x11#8, 0x22#8, 0x00#8, 0x0400#16) := by
  decide

/-- V-MEM-6: glyph 1. -/
theorem test_loadRegs : after 0xF465 { State.reset with i := 0x0005#16 }
    (fun t => (t.getV 0, t.getV 1, t.getV 2, t.getV 3, t.getV 4, t.getV 5, t.i)) =
    some (0x20#8, 0x60#8, 0x20#8, 0x20#8, 0x70#8, 0x00#8, 0x0005#16) := by decide

/-- V-MEM-7: the read wraps from 0xFFF to the font. -/
theorem test_loadRegs_wraps : after 0xF165 { State.reset with i := 0x1FFF#16 } (fun t => (t.getV 0, t.getV 1, t.i)) =
    some (0x00#8, 0xF0#8, 0x1FFF#16) := by decide

/-- A state whose next clock sample is `now`, with the reference and the accumulator given. -/
def clocked (ref : Nat) (acc : Nat) (now : Nat) (s : State) : State :=
  { s with tsRef := some ref, accNs := acc, inputs := { s.inputs with clockNs := ref, elapsed := [now - ref] } }

/-- V-TIM-1 and V-TMR-10: the value after this step's decrement. -/
theorem test_ldVxDt : after 0xF307 { State.reset with dt := 0x3C#8 } (fun t => t.getV 3) = some 0x3C#8 ∧
    after 0xF307 (clocked 0 16000000 1000000 { State.reset with dt := 0x05#8 }) (fun t => (t.dt, t.getV 3, t.accNs)) =
      some (0x04#8, 0x04#8, 333334) := by decide

/-- V-TMR-11: the write comes after the decrement. -/
theorem test_ldDtVx : after 0xF015 (clocked 0 16000000 1000000 { regs [(0, 0x09#8)] with dt := 0x05#8 })
    (fun t => (t.dt, t.accNs)) = some (0x09#8, 333334) := by decide

/-- V-TIM-3 -/
theorem test_ldStVx : after 0xF118 (regs [(1, 0x05#8)]) (fun t => (t.st, tone t)) = some (0x05#8, true) := by decide

/-- Reset with one answer of the random source decided. -/
def withRandom (r : Byte) : State := { State.reset with inputs := { State.reset.inputs with random := [r] } }

/-- V-IO-1, V-IO-2, V-IO-3 -/
theorem test_rnd : after 0xC00F (withRandom 0xB7#8) (fun t => t.getV 0) = some 0x07#8 ∧
    after 0xC000 (withRandom 0xB7#8) (fun t => (t.getV 0, t.inputs.random)) = some (0x00#8, []) ∧
    after 0xCFFF (withRandom 0xB7#8) (fun t => t.getV 15) = some 0xB7#8 := by decide

/-- One key query decided: key 5 only, or no key. -/
def withKey5 (down : Bool) (s : State) : State :=
  { s with inputs := { s.inputs with keypad := [(Vector.replicate 16 false).set 5 down] } }

/-- V-IO-4, V-IO-5, V-IO-8 -/
theorem test_skp : after 0xE09E (withKey5 true (regs [(0, 0x05#8)])) (fun t => t.pc) = some 0x0204#16 ∧
    after 0xE09E (withKey5 false (regs [(0, 0x05#8)])) (fun t => t.pc) = some 0x0202#16 ∧
    after 0xE09E (withKey5 true (regs [(0, 0xF5#8)])) (fun t => t.pc) = some 0x0204#16 := by decide

/-- V-IO-6, V-IO-7 -/
theorem test_sknp : after 0xE0A1 (withKey5 false (regs [(0, 0x05#8)])) (fun t => t.pc) = some 0x0204#16 ∧
    after 0xE0A1 (withKey5 true (regs [(0, 0x05#8)])) (fun t => t.pc) = some 0x0202#16 := by decide

/-! ### The step and the fault -/

/-- V-FLT-10: the fault bytes, the latch, `PC` past the word, `ts_ref` not refreshed, phases ticked. -/
theorem test_unknown_opcode :
    after 0xF00A State.reset (fun t => (t.halted, t.faultHi, t.faultLo)) = some (true, 0xF0#8, 0x0A#8) ∧
    after 0xF00A State.reset (fun t => (t.pc, t.tsRef, (t.grid.pixel 9 9).phase)) = some (0x0202#16, none, 1) := by decide

/-- V-FLT-15: the bookkeeping of a faulting step stays done. -/
theorem test_fault_after_bookkeeping :
    after 0x0000 (clocked 100 16666000 1100 { State.reset with dt := 0x02#8 }) (fun t => (t.accNs, t.dt, t.st)) =
      some (334, 0x01#8, 0x00#8) ∧
    after 0x0000 (clocked 100 16666000 1100 { State.reset with dt := 0x02#8 }) (fun t => (t.pc, t.halted, t.tsRef)) =
      some (0x0202#16, true, some 100) := by decide

/-- V-FLT-17: no step on a halted core. -/
theorem test_halted_core :
    (match step (State.reset.raiseUnknownOpcode 0xF0#8 0x0A#8) with
      | .fault (.halted hi lo) => some (hi, lo)
      | _ => none) = some (0xF0#8, 0x0A#8) := by decide

/-- V-FET-1: the high byte from 0xFFF, the low byte from 0x000. -/
theorem test_fetch_wraps : after 0x1234 { State.reset with pc := 0x0FFF#16 } (fun t => (t.pc, t.readByte 0x000)) =
    some (0x0234#16, 0x34#8) := by decide

/-- V-FET-3: `PC` wraps modulo 65536. -/
theorem test_pc_wraps : after 0x6001 { State.reset with pc := 0xFFFE#16 } (fun t => (t.getV 0, t.pc)) =
    some (0x01#8, 0x0000#16) := by decide

/-- V-RST-2: with nothing loaded the first step faults on 0x0000. -/
theorem test_first_step_from_reset :
    (match step State.reset with
      | .next t => some (t.halted, t.faultHi, t.faultLo)
      | _ => none) = some (true, 0x00#8, 0x00#8) := by decide

/-! ### Timers, reset, host operations, render -/

/-- V-TMR-3 (exactly the period) and V-TMR-6 (one tick only). -/
theorem test_timer : after 0x1200 (clocked 1000 0 16667666 { State.reset with dt := 0x05#8, st := 0x02#8 })
      (fun t => (t.accNs, t.dt, t.st, t.tsRef)) = some (0, 0x04#8, 0x01#8, some 16667666) ∧
    after 0x1200 (clocked 0 0 50000000 { State.reset with dt := 0x09#8, st := 0x09#8 })
      (fun t => (t.accNs, t.dt, t.st)) = some (33333334, 0x08#8, 0x08#8) := by decide

/-- V-RST-1: font bytes at both ends, program region, registers. -/
theorem test_boot : ([0x000, 0x001, 0x04B, 0x04F, 0x050, 0x200, 0x201, 0x202].map
      (State.boot [0x12#8, 0x00#8] Inputs.fresh).readByte) =
    [0xF0#8, 0x90#8, 0xF0#8, 0x80#8, 0x00#8, 0x12#8, 0x00#8, 0x00#8] := by decide

/-- V-RST-3: a shorter image leaves zeros behind it and nothing below 0x200 changes. -/
theorem test_load_program :
    (match hostLoad [0x11#8, 0x22#8, 0x33#8] (((State.reset.writeWord 0x200 0xAABB#16).writeWord 0x202 0xCCDD#16).writeByte 0x080
        0x55#8) with
      | .next t => some ([0x200, 0x201, 0x202, 0x203, 0x080].map t.readByte)
      | _ => none) = some [0x11#8, 0x22#8, 0x33#8, 0x00#8, 0x55#8] := by decide

/-- V-RST-4 -/
theorem test_unload_program :
    (match hostUnload ((State.reset.writeWord 0x200 0xAABB#16).writeByte 0x080 0x55#8) with
      | .next t => some ([0x200, 0x201, 0x080].map t.readByte)
      | _ => none) = some [0x00#8, 0x00#8, 0x55#8] := by decide

/-- rule R204: unlit at 1/10, 5/10, 9/10, 0 and settled. -/
theorem test_render_table : ([1, 5, 9, 0, 10] : List Phase).map (fun k => (Pixel.mk false k).render) =
    [[0xFF#8, 0xFF#8, 0xFF#8, 0xE6#8], [0xFF#8, 0xFF#8, 0xFF#8, 0x80#8], [0xFF#8, 0xFF#8, 0xFF#8, 0x19#8],
      [0xFF#8, 0xFF#8, 0xFF#8, 0xFF#8], [0x00#8, 0x00#8, 0x00#8, 0xFF#8]] := by decide

/-! ### Witnesses: the hypotheses of each statement that has any, met together by a concrete state -/

/-- A running state that has fetched `8014` with V0 = FF, V1 = 01 before it. -/
def ready (w : Nat) : State := (regs [(0, 0xFF#8), (1, 0x01#8)]).withFetchWord 16 w

theorem test_witness_DecodeEncodeRoundTrip : (Instr.drw 15 15 15).wellFormed = true ∧ (Instr.drw 0 0 0).wellFormed = true := by
  decide

theorem test_witness_EncodeDecodeRoundTrip : decode 0x8A#8 0xBE#8 = .ok (.shl 10 11) := by decide

theorem test_witness_StepRunsDecodedInstruction :
    ((ready 0x8014).halted = false ∧
      decode ((ready 0x8014).readByte (ready 0x8014).pc.toNat) ((ready 0x8014).readByte ((ready 0x8014).pc.toNat + 1)) =
        .ok (.addReg 0 1)) ∧
    ((ready 0x8018).halted = false ∧
      decode ((ready 0x8018).readByte (ready 0x8018).pc.toNat) ((ready 0x8018).readByte ((ready 0x8018).pc.toNat + 1)) =
        .error (.unknownOpcode 0x80#8 0x18#8)) := by decide

theorem test_witness_StepAnswersExactlyWhenRunning :
    State.reset.halted = false ∧ (State.reset.raiseUnknownOpcode 0#8 0#8).halted = true := by decide

theorem test_witness_UnknownOpcodeLatchesReport : State.reset.halted = false ∧
    ∀ i, decode (State.reset.readByte State.reset.pc.toNat) (State.reset.readByte (State.reset.pc.toNat + 1)) ≠ .ok i := by
  refine ⟨rfl, fun i h => ?_⟩
  have e : decode (State.reset.readByte State.reset.pc.toNat) (State.reset.readByte (State.reset.pc.toNat + 1)) =
      .error (.unknownOpcode 0#8 0#8) := by decide
  rw [e] at h; cases h

theorem test_witness_OnlyUnmatchedWordsRaise : State.reset.halted = false := by decide

theorem test_witness_DecayTick : (State.reset.grid.pixel 31 63).phase.val = 0 := by decide

/-- The three cases of SetPixel (43_display.md rule R192): dark to lit, lit to dark, dark to dark with its phase kept. -/
theorem test_witness_SetPixelFadeSemantics :
    (onePixel.grid.pixel 5 7 = ⟨true, 10⟩ ∧ ((onePixel.grid.setPixel 5 7 false).pixel 5 7) = ⟨false, 0⟩) ∧
    ((onePixel.decayTick.grid.pixel 5 8) = ⟨false, 1⟩ ∧ ((onePixel.decayTick.grid.setPixel 5 8 false).pixel 5 8) = ⟨false, 1⟩ ∧
      ((onePixel.decayTick.grid.setPixel 5 8 true).pixel 5 8) = ⟨true, 10⟩) := by decide

/-- At the edge of the period on both sides, and with no reference. -/
theorem test_witness_TimerUpdateCountsOnePeriod :
    State.reset.tsRef = none ∧
    ((clocked 5 0 16666670 State.reset).tsRef = some 5 ∧ 5 ≤ 16666670 ∧ 0 + (16666670 - 5) < 16666666) ∧
    ((clocked 5 0 16666671 State.reset).tsRef = some 5 ∧ 5 ≤ 16666671 ∧ 16666666 ≤ 0 + (16666671 - 5)) := by decide

theorem test_witness_TimersFlooredIndependently : State.reset.dt = 0#8 ∧ State.reset.st = 0#8 := by decide

/-- A first step for each clause: a write of DT, a write of ST, neither, and one that faults. -/
theorem test_witness_FirstStepDecrementsNothing :
    ((ready 0xF015).halted = false ∧ (ready 0xF015).tsRef = none) ∧
    after 0xF015 (ready 0xF015) (fun t => t.dt) = some 0xFF#8 ∧
    after 0xF118 (ready 0xF118) (fun t => t.st) = some 0x01#8 ∧
    after 0x1200 { State.reset with dt := 0x05#8, st := 0x04#8 } (fun t => (t.halted, t.dt, t.st)) =
      some (false, 0x05#8, 0x04#8) ∧
    after 0x0000 { State.reset with dt := 0x05#8, st := 0x04#8 } (fun t => (t.halted, t.dt, t.st)) =
      some (true, 0x05#8, 0x04#8) := by decide

theorem test_witness_TimerCadence : (clocked 5 16666665 5 State.reset).tsRef = some 5 ∧
    (clocked 5 16666665 5 State.reset).accNs < 16666666 ∧ ∀ e ∈ [0, 16666665, 1], e < 16666666 := by decide

/-- A destination that is not VF, as ADD, SUB, SUBN, SHR and SHL distinguish it. -/
theorem test_witness_AdditionsWrapAndCarry : (0 : Reg) ≠ regVF ∧ (14 : Reg) ≠ regVF := by decide

/-- A call, and a state after it with the slot as it left it: at the wrap of `SP`. -/
theorem test_witness_ReturnUndoesCall : ∃ t u : State,
    exec (.call 0x300#12) { State.reset with sp := 0xFF#8 } = .next t ∧ u.sp = t.sp ∧
    u.readByte (slotAddr t.sp) = t.readByte (slotAddr t.sp) ∧
    u.readByte (slotAddr t.sp + 1) = t.readByte (slotAddr t.sp + 1) := ⟨_, _, rfl, rfl, rfl, rfl⟩

theorem test_witness_StackWrapsSilently : State.reset.sp = 0#8 ∧ 0 < 256 := by decide

theorem test_witness_RandomByteIsMasked : (withRandom 0xB7#8).inputs.random = 0xB7#8 :: [] := by decide

theorem test_witness_SkipsOnKey : ((5 : Fin 16)).val = ((regs [(0, 0xF5#8)]).getV 0).toNat % 16 := by decide

theorem test_witness_QueriesPerInstruction : (∃ t, exec (.rnd 0 0#8) State.reset = .next t) ∧
    (∃ t, exec (.sknp 0) State.reset = .next t) ∧ (∃ t, exec .cls State.reset = .next t) ∧
    (∀ x kk, Instr.cls ≠ .rnd x kk) ∧ (∀ x, Instr.cls ≠ .skp x ∧ Instr.cls ≠ .sknp x) :=
  ⟨⟨_, rfl⟩, ⟨_, rfl⟩, ⟨_, rfl⟩, fun _ _ => nofun, fun _ => ⟨nofun, nofun⟩⟩

/-- The smallest and the largest row count. -/
theorem test_witness_DrawSpritePixels : 0 < 16 ∧ 15 < 16 := by decide

/-- A first draw that leaves both coordinates as they are: VF is not one of them, or it is and held 0. -/
theorem test_witness_DoubleDrawRestoresLit :
    (∃ t, exec (.drw 0 1 2) (regs [(0, 0x3C#8), (1, 0x1E#8)]) = .next t ∧
      t.getV 0 = (regs [(0, 0x3C#8), (1, 0x1E#8)]).getV 0 ∧ t.getV 1 = (regs [(0, 0x3C#8), (1, 0x1E#8)]).getV 1) ∧
    (∃ t, exec (.drw 15 15 1) State.reset = .next t ∧ t.getV 15 = State.reset.getV 15) := by
  refine ⟨⟨_, rfl, ?_, ?_⟩, _, rfl, ?_⟩ <;> decide

theorem test_witness_LoadUndoesStore : ∃ t u : State,
    exec (.storeRegs 15) { regs [(0, 0x11#8)] with i := 0x0FF8#16 } = .next t ∧ u.i = t.i ∧
    ∀ a, u.readByte a = t.readByte a := ⟨_, _, rfl, rfl, fun _ => rfl⟩

/-- For each clause of the statements about writers, an instruction that does write the piece. -/
theorem test_witness_SpecialRegisterWriters :
    (match exec (.call 0x300#12) State.reset with | .next t => (t.sp, t.pc) | _ => (0#8, 0#16)) = (0x01#8, 0x0300#16) ∧
    (match exec (.ldF 0) (regs [(0, 0x01#8)]) with | .next t => t.i | _ => 0#16) = 0x0005#16 ∧
    (match exec (.ldDtVx 0) (regs [(0, 0x01#8)]) with | .next t => t.dt | _ => 0#8) = 0x01#8 ∧
    (match exec (.ldStVx 0) (regs [(0, 0x01#8)]) with | .next t => t.st | _ => 0#8) = 0x01#8 := by decide

theorem test_witness_MemoryAndDisplayWriters :
    (match exec (.ldB 0) { regs [(0, 0xFF#8)] with i := 0x0300#16 } with | .next t => t.readByte 0x300 | _ => 0#8) = 0x02#8 ∧
    (match exec .cls onePixel with | .next t => (t.grid.pixel 5 7).lit | _ => true) = false := by decide

theorem test_witness_FlagRegisterWriters :
    (match exec (.addReg 0 1) (regs [(0, 0xFF#8), (1, 0x01#8)]) with | .next t => t.getV regVF | _ => 0#8) = 0x01#8 ∧
    (match exec (.ldImm regVF 0x55#8) State.reset with | .next t => t.getV regVF | _ => 0#8) = 0x55#8 := by decide

/-- Reset meets every invariant. -/
theorem test_witness_reset_sound : Sound State.reset := by
  refine ⟨by simp [MemCanonical, Memory.wf, State.reset], fun r c h => ?_, ⟨fun _ => ⟨rfl, rfl⟩, fun h => by cases h⟩,
    fun t h => by cases h⟩
  have e : State.reset.grid.pixel r c = Pixel.dark := by simp [State.reset, Grid.pixel, Grid.dark]
  rw [e] at h; cases h

/-- ... and steps, so every hypothesis of the invariant statements is met there. -/
theorem test_witness_StepKeepsSound : ∃ t, Sound State.reset ∧ step State.reset = .next t := ⟨_, test_witness_reset_sound, rfl⟩

theorem test_witness_HostOperationsKeepSound : (∃ t, hostReset [0x12#8] State.reset = .next t) ∧
    (∃ t, hostLoad [0x12#8] State.reset = .next t) ∧ (∃ t, hostUnload State.reset = .next t) := ⟨⟨_, rfl⟩, ⟨_, rfl⟩, ⟨_, rfl⟩⟩

/-- Two running states that differ in phases alone. -/
theorem test_witness_PhasesAreInvisible :
    OnlyChanges (fun p => ∃ r c, p = .phase r c) State.reset State.reset.decayTick ∧ State.reset.halted = false ∧
    (State.reset.decayTick.grid.pixel 0 0).phase ≠ (State.reset.grid.pixel 0 0).phase := by
  refine ⟨fun p hp => ?_, rfl, by decide⟩
  cases p with
  | phase r c => exact absurd ⟨r, c, rfl⟩ hp
  | lit r c =>
    show (State.reset.grid.decay.pixel r c).lit = _
    simp
  | clock => exact ⟨rfl, rfl, rfl⟩
  | random => exact ⟨rfl, rfl⟩
  | keypad => exact ⟨rfl, rfl⟩
  | _ => rfl

/-- Two running states whose `I` differs above bit 11 alone. -/
theorem test_witness_IndexHighBitsAreInvisible :
    OnlyChanges (fun p => p = .i) State.reset (State.reset.setI 0xF000#16) ∧
    (State.reset.setI 0xF000#16).i.toNat % 4096 = State.reset.i.toNat % 4096 ∧ State.reset.halted = false := by
  refine ⟨fun p hp => ?_, by decide, rfl⟩
  cases p with
  | i => exact absurd rfl hp
  | clock => exact ⟨rfl, rfl, rfl⟩
  | random => exact ⟨rfl, rfl⟩
  | keypad => exact ⟨rfl, rfl⟩
  | _ => rfl

theorem test_witness_ResetGivesBootState :
    ([] : List Byte).length ≤ 2048 ∧ (List.replicate 2048 0xFF#8).length ≤ 2048 := by simp

/-- An address that is not the one written, at the wrap. -/
theorem test_witness_WriteSetsOneByte : 0x0FFF % 4096 ≠ 0x1000 % 4096 := by decide

/-- The first and the last register of a block, and one above it. -/
theorem test_witness_RegisterBlocks : (0 : Reg).val ≤ (14 : Reg).val ∧ (14 : Reg).val ≤ (14 : Reg).val ∧
    (14 : Reg).val < (15 : Reg).val := by decide

/-- The longest image, and one byte more. -/
theorem test_witness_LoadReplacesProgramRegion :
    (List.replicate 2048 0xFF#8).length ≤ 2048 ∧ 2048 < (List.replicate 2049 0xFF#8).length := by
  simp

end Sys2Proof.Tests
end

section
/-! Proofs about memory (20_memory.md). -/

namespace Sys2Proof.Machine

open Sys2Proof.Safety

/-- A byte write changes the one byte the reduced address names (rule R62). -/
theorem onlyChanges_writeByte (s : State) (a : Nat) (b : Byte) :
    OnlyChanges (fun p => ∃ k : Fin 4096, p = .mem k ∧ k.val = a % 4096) s (s.writeByte a b) := by
  intro p hp
  cases p with
  | mem k =>
    have hk : k.val % 4096 ≠ a % 4096 := fun e => hp ⟨k, rfl, Nat.mod_eq_of_lt k.isLt ▸ e⟩
    simp only [Piece.same, State.readByte_writeByte, if_neg hk]
  | v k => exact State.getV_congr (State.writeByte_v s a b) k
  | _ => simp [Piece.same]

/-- Settles O47, by the rule for a read after a write and the frame of a byte write. -/
theorem writeSetsOneByte : Obligations.WriteSetsOneByte := by
  intro s a b
  refine ⟨?_, fun k hk => ?_, onlyChanges_writeByte s a b⟩
  · rw [State.readByte_writeByte, if_pos (Nat.mod_mod a 4096)]
  · rw [State.readByte_writeByte, if_neg hk]

end Sys2Proof.Machine
end

section
/-! Proofs about decoding (40_step_cycle.md rule R124): each field of the fetched word in terms of its two bytes, and no word
matched by two rows. -/

namespace Sys2Proof

/-! ### Fields of a word made of two bytes (30_encoding.md rule R91, rule R92) -/

theorem fieldN0_append (hi lo : Byte) : fieldN0 (hi ++ lo) = hi.extractLsb' 4 4 :=
  BitVec.extractLsb'_append_eq_of_le (by decide)

theorem fieldX_append (hi lo : Byte) : (fieldX (hi ++ lo)).val = (hi.extractLsb' 0 4).toNat :=
  congrArg BitVec.toNat (BitVec.extractLsb'_append_eq_of_le (by decide))

theorem fieldY_append (hi lo : Byte) : (fieldY (hi ++ lo)).val = (lo.extractLsb' 4 4).toNat :=
  congrArg BitVec.toNat (BitVec.extractLsb'_append_eq_of_add_le (by decide))

theorem fieldN_append (hi lo : Byte) : fieldN (hi ++ lo) = (lo.extractLsb' 0 4).toNat :=
  congrArg BitVec.toNat (BitVec.extractLsb'_append_eq_of_add_le (by decide))

/-- `nnn` is the one field that crosses the byte boundary. -/
theorem fieldNNN_append (hi lo : Byte) : fieldNNN (hi ++ lo) = hi.extractLsb' 0 4 ++ lo := by
  rw [fieldNNN, BitVec.extractLsb'_append_eq_ite]
  simp

theorem fieldKK_append (hi lo : Byte) : fieldKK (hi ++ lo) = lo :=
  BitVec.extractLsb'_append_eq_right

/-! ### The selected row -/

/-- Two rows of the opcode map that match one word are the same row: each is the row the word selects. -/
theorem row_unique_of_matches {r q : Row} {w : Word} (hr : r ∈ opcodeRows) (hq : q ∈ opcodeRows)
    (hrw : r.matches w = true) (hqw : q.matches w = true) : q = r :=
  Option.some.inj ((selectRow_of_matches hq hqw).symm.trans (selectRow_of_matches hr hrw))

/-- Settles O3, by the fields of a word made of two bytes, the two answers of the decoder and the uniqueness of a matching
row. -/
theorem decodeSelectsOneRowOrNone : Obligations.DecodeSelectsOneRowOrNone := by
  intro hi lo
  refine ⟨fieldN0_append hi lo, fieldX_append hi lo, fieldY_append hi lo, fieldN_append hi lo, fieldNNN_append hi lo,
    fieldKK_append hi lo, ?_⟩
  rcases decode_cases hi lo with ⟨r, hr, hrw, hdec⟩ | hnone
  · exact .inl ⟨r, hr, hrw, hdec, fun q hq hqw => row_unique_of_matches hr hq hrw hqw⟩
  · exact .inr hnone

end Sys2Proof
end

section
/-! Proofs about the register loads and the bitwise instructions (41_alu.md): each is one write of a general register, so its
effect is a register's read after its write, and its frame that of the write. -/

namespace Sys2Proof.Machine

open Sys2Proof.Safety

/-! ### The one register write each instruction makes -/

theorem exec_ldImm (s : State) (x : Reg) (kk : Byte) : exec (.ldImm x kk) s = .next (s.setV x kk) := rfl

theorem exec_ldReg (s : State) (x y : Reg) : exec (.ldReg x y) s = .next (s.setV x (s.getV y)) := rfl

theorem exec_orReg (s : State) (x y : Reg) : exec (.orReg x y) s = .next (s.setV x (s.getV x ||| s.getV y)) := rfl

theorem exec_andReg (s : State) (x y : Reg) : exec (.andReg x y) s = .next (s.setV x (s.getV x &&& s.getV y)) := rfl

theorem exec_xorReg (s : State) (x y : Reg) : exec (.xorReg x y) s = .next (s.setV x (s.getV x ^^^ s.getV y)) := rfl

/-- Settles O18, by the read of the register just written and the frame of a register write. -/
theorem registerLoads : Obligations.RegisterLoads := by
  intro s x y kk
  constructor
  · exact ⟨_, exec_ldImm s x kk, State.getV_setV_same s x kk, onlyChanges_setV s x kk⟩
  · exact ⟨_, exec_ldReg s x y, State.getV_setV_same s x _, onlyChanges_setV s x _⟩

/-- Settles O19, by the read of the register just written, bit by bit, and the frame of a register write. -/
theorem bitwiseInstructions : Obligations.BitwiseInstructions := by
  intro s x y
  refine ⟨⟨_, exec_orReg s x y, fun k => ?_, onlyChanges_setV s x _⟩,
    ⟨_, exec_andReg s x y, fun k => ?_, onlyChanges_setV s x _⟩,
    ⟨_, exec_xorReg s x y, fun k => ?_, onlyChanges_setV s x _⟩⟩
  · rw [State.getV_setV_same, BitVec.getLsbD_or]
  · rw [State.getV_setV_same, BitVec.getLsbD_and]
  · rw [State.getV_setV_same, BitVec.getLsbD_xor]

end Sys2Proof.Machine
end

section
/-! Proofs about jumps and skips (42_control_flow.md): each writes `PC` alone, so its effect is the value `PC` takes, and its
frame that of a `PC` write. -/

namespace Sys2Proof.Machine

open Sys2Proof.Safety

/-! ### The one change of `PC` each instruction makes -/

theorem exec_jp (s : State) (nnn : Addr12) : exec (.jp nnn) s = .next (s.setPc (zext12 nnn)) := rfl

theorem exec_seImm (s : State) (x : Reg) (kk : Byte) : exec (.seImm x kk) s = .next (s.skipIf (s.getV x == kk)) := rfl

theorem exec_sneImm (s : State) (x : Reg) (kk : Byte) : exec (.sneImm x kk) s = .next (s.skipIf (s.getV x != kk)) := rfl

/-! ### Targets and skips -/

/-- A 12-bit address keeps its value in the 16-bit `PC`. -/
theorem toNat_zext12 (a : Addr12) : (zext12 a).toNat = a.toNat :=
  BitVec.toNat_setWidth_of_le (by decide)

/-- A skip changes `PC` or nothing. -/
theorem onlyChanges_skipIf (s : State) (c : Bool) : OnlyChanges (fun p => p = .pc) s (s.skipIf c) := by
  cases c with
  | true => exact onlyChanges_setPc s _
  | false => exact onlyChanges_refl _ s

theorem State.skipIf_beq_pc (s : State) (a b : Byte) :
    (s.skipIf (a == b)).pc = if a = b then s.pc + 2#16 else s.pc := by
  by_cases h : a = b <;> simp [h]

theorem State.skipIf_bne_pc (s : State) (a b : Byte) :
    (s.skipIf (a != b)).pc = if a = b then s.pc else s.pc + 2#16 := by
  by_cases h : a = b <;> simp [h]

/-- Settles O23, by the value of the zero-extended target and the frame of a `PC` write. -/
theorem jumpLoadsTarget : Obligations.JumpLoadsTarget := by
  intro s nnn
  exact ⟨_, exec_jp s nnn, toNat_zext12 nnn, onlyChanges_setPc s _⟩

/-- Settles O29, by the `PC` after a skip on equality or inequality and the frame of a skip. -/
theorem skipsOnImmediate : Obligations.SkipsOnImmediate := by
  intro s x kk
  constructor
  · exact ⟨_, exec_seImm s x kk, State.skipIf_beq_pc s _ kk, onlyChanges_skipIf s _⟩
  · exact ⟨_, exec_sneImm s x kk, State.skipIf_bne_pc s _ kk, onlyChanges_skipIf s _⟩

end Sys2Proof.Machine
end

section
/-! Proofs about the display (43_display.md): the update of one pixel, the clear, and where the render output keeps the bytes
of a pixel. -/

namespace Sys2Proof.Machine

open Sys2Proof.Safety

/-! ### One pixel update (rule R192): an equation per case -/

theorem Pixel.update_lit (p : Pixel) : p.update true = { lit := true, phase := Phase.settled } := rfl

theorem Pixel.update_fade {p : Pixel} (h : p.lit = true) : p.update false = { lit := false, phase := 0 } := by
  simp [Pixel.update, h]

theorem Pixel.update_unlit {p : Pixel} (h : p.lit = false) : p.update false = p := by
  simp [Pixel.update, h]

theorem Grid.pixel_setPixel_same (g : Grid) (r : Fin 32) (c : Fin 64) (new : Bool) :
    (g.setPixel r c new).pixel r c = (g.pixel r c).update new :=
  Grid.pixel_setAt_same g r c _

/-- Settles O13, by the pixel of an updated grid and the three cases of a pixel update. -/
theorem setPixelFadeSemantics : Obligations.SetPixelFadeSemantics := by
  intro g r c new
  rw [Grid.pixel_setPixel_same]
  refine ⟨Pixel.lit_update _ new, ?_, ?_, ?_, fun r' c' hne => ?_⟩
  · rintro rfl
    rw [Pixel.update_lit]
  · rintro rfl hlit
    rw [Pixel.update_fade hlit]
  · rintro rfl hunlit
    rw [Pixel.update_unlit hunlit]
  · rw [Grid.pixel_setPixel, if_neg fun e => hne (Prod.ext e.1 e.2)]

/-! ### The clear (rule R190) -/

theorem exec_cls (s : State) : exec .cls s = .next s.clearGrid := rfl

theorem State.pixel_clearGrid (s : State) (r : Fin 32) (c : Fin 64) : s.clearGrid.grid.pixel r c = Pixel.dark :=
  Grid.pixel_dark r c

/-- The clear changes nothing but pixels. -/
theorem onlyChanges_clearGrid (s : State) :
    OnlyChanges (fun p => ∃ r c, p = .lit r c ∨ p = .phase r c) s s.clearGrid := by
  intro p hp
  cases p with
  | lit r c => exact absurd ⟨r, c, .inl rfl⟩ hp
  | phase r c => exact absurd ⟨r, c, .inr rfl⟩ hp
  | v k => exact State.getV_congr (State.clearGrid_v s) k
  | mem k => exact State.readByte_congr (State.clearGrid_mem s) k
  | _ => simp [Piece.same]

/-- Settles O34, by the pixels of the cleared grid and the frame of the clear. -/
theorem clearScreen : Obligations.ClearScreen := by
  intro s
  refine ⟨_, exec_cls s, fun r c => ?_, onlyChanges_clearGrid s⟩
  rw [State.pixel_clearGrid]
  exact ⟨rfl, rfl⟩

/-! ### The render output (rule R201)

Row-major order twice over: the frame is 32 blocks of 256 bytes, a block is 64 groups of 4 bytes. -/

/-- In a list put together from blocks of one length `m`, entry `m * i + j` is entry `j` of block `i`. -/
theorem getElem?_flatMap_of_length_eq {α β : Type} {f : α → List β} {m : Nat} (hf : ∀ a, (f a).length = m) {j : Nat}
    (hj : j < m) (l : List α) (i : Nat) : (l.flatMap f)[m * i + j]? = l[i]?.bind fun a => (f a)[j]? := by
  induction l generalizing i with
  | nil => simp
  | cons a l ih =>
    rw [List.flatMap_cons]
    cases i with
    | zero =>
      rw [Nat.mul_zero, Nat.zero_add, List.getElem?_append_left (by rw [hf]; exact hj)]
      rfl
    | succ i =>
      have hsplit : m * (i + 1) + j = (f a).length + (m * i + j) := by rw [hf, Nat.mul_succ]; omega
      rw [hsplit, List.getElem?_append_right (Nat.le_add_right _ _), Nat.add_sub_cancel_left, ih]
      rfl

theorem length_flatMap_of_length_eq {α β : Type} {f : α → List β} {m : Nat} (hf : ∀ a, (f a).length = m) (l : List α) :
    (l.flatMap f).length = l.length * m := by
  simp [List.length_flatMap, hf]

theorem Pixel.length_render (p : Pixel) : p.render.length = 4 := rfl

/-- The 256 bytes of one row. -/
theorem length_flatMap_render (row : Vector Pixel 64) : (row.toList.flatMap Pixel.render).length = 256 := by
  rw [length_flatMap_of_length_eq Pixel.length_render, Vector.length_toList]

theorem length_renderFrame (s : State) : (renderFrame s).length = 8192 := by
  rw [renderFrame, length_flatMap_of_length_eq length_flatMap_render, Vector.length_toList]

/-- Byte `j` of the group of pixel `(r, c)`. -/
theorem getElem?_renderFrame (s : State) (r : Fin 32) (c : Fin 64) {j : Nat} (hj : j < 4) :
    (renderFrame s)[4 * (64 * r.val + c.val) + j]? = (s.grid.pixel r c).render[j]? := by
  have hc := c.isLt
  have hsplit : 4 * (64 * r.val + c.val) + j = 256 * r.val + (4 * c.val + j) := by omega
  have hrow : s.grid.toList[r.val]? = some s.grid[r.val] := by simp
  have hpixel : s.grid[r.val].toList[c.val]? = some (s.grid.pixel r c) := by simp [Grid.pixel]
  rw [renderFrame, hsplit, getElem?_flatMap_of_length_eq length_flatMap_render (by omega), hrow, Option.bind_some,
    getElem?_flatMap_of_length_eq Pixel.length_render hj, hpixel, Option.bind_some]

/-- Settles O12, by the length of the frame and the place of a pixel's group in it. -/
theorem renderFrameIsRowMajor : Obligations.RenderFrameIsRowMajor := by
  intro s
  refine ⟨length_renderFrame s, fun r c => ⟨?_, ?_, ?_, ?_⟩⟩
  · exact getElem?_renderFrame s r c (j := 0) (by decide)
  · exact getElem?_renderFrame s r c (j := 1) (by decide)
  · exact getElem?_renderFrame s r c (j := 2) (by decide)
  · exact getElem?_renderFrame s r c (j := 3) (by decide)

end Sys2Proof.Machine
end

section
/-! Proofs about the index register and the timer registers (44_index_memory_timer_ops.md): `LD I, nnn` is one write of `I`,
`LD Vx, DT` one write of a general register, so the frame of each is that of its write. -/

namespace Sys2Proof.Machine

open Sys2Proof.Safety

/-! ### The one write each instruction makes -/

theorem exec_ldI (s : State) (nnn : Addr12) : exec (.ldI nnn) s = .next (s.setI (zext12 nnn)) := rfl

theorem exec_ldVxDt (s : State) (x : Reg) : exec (.ldVxDt x) s = .next (s.setV x s.dt) := rfl

/-- Settles O39, by the value of the zero-extended immediate and the frame of an `I` write. -/
theorem loadIndexImmediate : Obligations.LoadIndexImmediate := by
  intro s nnn
  refine ⟨_, exec_ldI s nnn, ?_, onlyChanges_setI s _⟩
  rw [State.setI_i, toNat_zext12]

/-- Settles O45, by the read of the register just written and the frame of a register write. -/
theorem delayTimerRead : Obligations.DelayTimerRead := by
  intro s x
  exact ⟨_, exec_ldVxDt s x, State.getV_setV_same s x s.dt, onlyChanges_setV s x s.dt⟩

end Sys2Proof.Machine
end

section
/-! Proofs about the random instruction (45_random_input.md rule R240): `RND Vx, kk` is one query of the random source, then
one write of a general register, so its frame is composed of the frames of the two. -/

namespace Sys2Proof.Machine

open Sys2Proof.Safety

theorem exec_rnd (s : State) (x : Reg) (kk : Byte) :
    exec (.rnd x kk) s = .next (s.queryRandom.setV x (s.randByte &&& kk)) := rfl

theorem State.randByte_cons {s : State} {r : Byte} {rs : List Byte} (h : s.inputs.random = r :: rs) : s.randByte = r :=
  Inputs.nextRandom_cons s.inputs r rs h

/-- A query of the random source changes that input alone. -/
theorem onlyChanges_queryRandom (s : State) : OnlyChanges (fun p => p = .random) s s.queryRandom := by
  intro p hp
  cases p with
  | random => exact absurd rfl hp
  | v k => exact State.getV_congr (State.queryRandom_v s) k
  | mem a => exact State.readByte_congr (State.queryRandom_mem s) a
  | _ => simp [Piece.same]

/-- A query of the random source and a register write change that input and that register. -/
theorem onlyChanges_queryRandom_setV (s : State) (x : Reg) (b : Byte) :
    OnlyChanges (fun p => p = .v x ∨ p = .random) s (s.queryRandom.setV x b) :=
  onlyChanges_trans (onlyChanges_mono (onlyChanges_queryRandom s) fun _ => .inr)
    (onlyChanges_mono (onlyChanges_setV s.queryRandom x b) fun _ => .inl)

/-- Settles O31, by the read of the register just written, the inputs after one query and the composed frame. -/
theorem randomByteIsMasked : Obligations.RandomByteIsMasked := by
  intro s x kk
  have hread : (s.queryRandom.setV x (s.randByte &&& kk)).getV x = s.randByte &&& kk := State.getV_setV_same _ x _
  refine ⟨_, exec_rnd s x kk, hread, ?_, fun r rs h => ⟨?_, ?_⟩, fun h0 => ?_, fun hff => ?_,
    onlyChanges_queryRandom_setV s x _⟩
  · rw [State.setV_inputs, State.queryRandom_inputs, Inputs.queryRandom_randomReads]
  · rw [hread, State.randByte_cons h]
  · rw [State.setV_inputs, State.queryRandom_inputs, Inputs.queryRandom_random, h, List.tail_cons]
  · rw [hread, h0, BitVec.and_zero]
  · rw [hread, hff]
    exact BitVec.and_allOnes

end Sys2Proof.Machine
end

section
/-! Proofs about the timers (60_exceptions.md section 7): one timer update counts both timers down by the same number of ticks,
and that number is fixed by the clock, the reference and the accumulator alone. -/

namespace Sys2Proof.Machine

/-- The ticks one timer update makes: those of the accumulated time, and none before there is a reference (rule R265, rule
R267). Neither timer is read. -/
def State.updateTicks (s : State) (now : Nat) : Nat :=
  match s.tsRef with
  | some t => timerTicks (s.accNs + (now - t))
  | none => 0

theorem State.updateTicks_none {s : State} (h : s.tsRef = none) (now : Nat) : s.updateTicks now = 0 := by
  unfold State.updateTicks; rw [h]

theorem State.updateTicks_some {s : State} {t : Nat} (h : s.tsRef = some t) (now : Nat) :
    s.updateTicks now = timerTicks (s.accNs + (now - t)) := by
  unfold State.updateTicks; rw [h]

theorem State.updateTicks_with_dt (s : State) (d : Byte) (now : Nat) :
    ({ s with dt := d } : State).updateTicks now = s.updateTicks now := rfl

theorem State.updateTicks_with_st (s : State) (e : Byte) (now : Nat) :
    ({ s with st := e } : State).updateTicks now = s.updateTicks now := rfl

theorem State.timerUpdate_dt (s : State) (now : Nat) : (s.timerUpdate now).dt = countDown (s.updateTicks now) s.dt := by
  cases h : s.tsRef with
  | none => rw [State.timerUpdate_none h, State.updateTicks_none h, countDown_zero]
  | some t => rw [State.timerUpdate_some h, State.updateTicks_some h, State.runTimers_dt]

theorem State.timerUpdate_st (s : State) (now : Nat) : (s.timerUpdate now).st = countDown (s.updateTicks now) s.st := by
  cases h : s.tsRef with
  | none => rw [State.timerUpdate_none h, State.updateTicks_none h, countDown_zero]
  | some t => rw [State.timerUpdate_some h, State.updateTicks_some h, State.runTimers_st]

/-- The floor (rule R266): a timer at 0 stays at 0, however many ticks there are. -/
theorem countDown_of_zero (n : Nat) : countDown n 0#8 = 0#8 := by
  simp [countDown]

/-- Settles O15, by the count-down of each timer, whose number of ticks reads neither timer, and the floor at 0. -/
theorem timersFlooredIndependently : Obligations.TimersFlooredIndependently := by
  intro s now d e
  refine ⟨fun h => ?_, fun h => ?_, ?_, ?_⟩
  · rw [State.timerUpdate_dt, h, countDown_of_zero]
  · rw [State.timerUpdate_st, h, countDown_of_zero]
  · rw [State.timerUpdate_dt, State.timerUpdate_dt, State.updateTicks_with_st s e]
  · rw [State.timerUpdate_st, State.timerUpdate_st, State.updateTicks_with_dt s d]

end Sys2Proof.Machine
end

section
/-! What one instruction does, once: an equation per instruction through the named operations, the frame of each operation, and
from both the pieces each instruction may change (`mayChange`, `onlyChanges_exec`). -/

namespace Sys2Proof.Machine

open Sys2Proof.Safety

/-! ### An equation per instruction -/

theorem exec_hrcls (s : State) : exec .hrcls s = .next s.clearGrid := rfl

theorem exec_ret (s : State) : exec .ret s = .next (s.dropTop.setPc s.topOfStack) := rfl

theorem exec_call (s : State) (nnn : Addr12) : exec (.call nnn) s = .next ((s.push s.pc).setPc (zext12 nnn)) := rfl

theorem exec_jpV0 (s : State) (nnn : Addr12) :
    exec (.jpV0 nnn) s = .next (s.setPc (zext12 nnn + zext8 (s.getV 0))) := rfl

theorem exec_seReg (s : State) (x y : Reg) : exec (.seReg x y) s = .next (s.skipIf (s.getV x == s.getV y)) := rfl

theorem exec_sneReg (s : State) (x y : Reg) : exec (.sneReg x y) s = .next (s.skipIf (s.getV x != s.getV y)) := rfl

theorem exec_addImm (s : State) (x : Reg) (kk : Byte) : exec (.addImm x kk) s = .next (s.setV x (s.getV x + kk)) := rfl

theorem exec_addReg (s : State) (x y : Reg) :
    exec (.addReg x y) s = .next (s.setResultFlag x (s.getV x + s.getV y) (carryOf (s.getV x) (s.getV y))) := rfl

theorem exec_subReg (s : State) (x y : Reg) :
    exec (.subReg x y) s = .next (s.setResultFlag x (s.getV x - s.getV y) (greaterOf (s.getV x) (s.getV y))) := rfl

theorem exec_subnReg (s : State) (x y : Reg) :
    exec (.subnReg x y) s = .next (s.setResultFlag x (s.getV y - s.getV x) (greaterOf (s.getV y) (s.getV x))) := rfl

/-- The shifted register is `V[x]`; `y` is not read (decision D10). -/
theorem exec_shr (s : State) (x y : Reg) :
    exec (.shr x y) s = .next (s.setResultFlag x (s.getV x >>> 1) (outOfShr (s.getV x))) := rfl

theorem exec_shl (s : State) (x y : Reg) :
    exec (.shl x y) s = .next (s.setResultFlag x (s.getV x <<< 1) (outOfShl (s.getV x))) := rfl

theorem exec_drw (s : State) (x y : Reg) (n : Nat) :
    exec (.drw x y n) s =
      .next ({ s with grid := (drawRows (s.getV x) (s.getV y) (s.spriteBytes n) s.grid).1 }.setV regVF
        (flagByte (drawRows (s.getV x) (s.getV y) (s.spriteBytes n) s.grid).2)) := rfl

theorem exec_skp (s : State) (x : Reg) :
    exec (.skp x) s = .next (s.queryKey.skipIf (s.keyDown (keyNumber (s.getV x)))) := rfl

theorem exec_sknp (s : State) (x : Reg) :
    exec (.sknp x) s = .next (s.queryKey.skipIf (!s.keyDown (keyNumber (s.getV x)))) := rfl

theorem exec_ldDtVx (s : State) (x : Reg) : exec (.ldDtVx x) s = .next { s with dt := s.getV x } := rfl

theorem exec_ldStVx (s : State) (x : Reg) : exec (.ldStVx x) s = .next { s with st := s.getV x } := rfl

theorem exec_addI (s : State) (x : Reg) : exec (.addI x) s = .next (s.setI (s.i + zext8 (s.getV x))) := rfl

theorem exec_ldF (s : State) (x : Reg) : exec (.ldF x) s = .next (s.setI (glyphAddr (s.getV x))) := rfl

theorem exec_ldB (s : State) (x : Reg) : exec (.ldB x) s = .next (s.storeBytes (s.elemAddr 0) (bcdDigits (s.getV x))) := rfl

theorem State.setI_of_eq {s : State} {w : Word} (h : s.i = w) : s.setI w = s := by
  subst h; rfl

/-- The block store leaves `I` (decision D14), so it is the store alone. -/
theorem exec_storeRegs (s : State) (x : Reg) :
    exec (.storeRegs x) s = .next (s.storeBytes (s.elemAddr 0) (s.regBlock x)) :=
  congrArg Host.Outcome.next (State.setI_of_eq (State.storeBytes_i s _ _))

/-- The block load leaves `I` (decision D14), so it is the load alone. -/
theorem exec_loadRegs (s : State) (x : Reg) :
    exec (.loadRegs x) s = .next (s.loadRegBlock (s.elemAddr 0) (x.val + 1)) :=
  congrArg Host.Outcome.next (State.setI_of_eq (State.loadRegBlock_i s _ _))

/-! ### Blocks of bytes -/

theorem length_bcdDigits (b : Byte) : (bcdDigits b).length = 3 := rfl

theorem State.length_regBlock (s : State) (x : Reg) : (s.regBlock x).length = x.val + 1 := by
  have := x.isLt
  simp only [State.regBlock, List.length_take, Vector.length_toList]
  omega

theorem State.getD_regBlock (s : State) {x j : Reg} (h : j.val ≤ x.val) : (s.regBlock x).getD j.val 0#8 = s.getV j := by
  have := j.isLt
  simp [State.regBlock, List.getD, Nat.lt_succ_of_le h, State.getV]

/-! ### The frame of each operation -/

/-- Two changes in turn change what either may. -/
theorem onlyChanges_seq {may may' : Piece → Prop} {s t u : State} (h : OnlyChanges may s t) (k : OnlyChanges may' t u) :
    OnlyChanges (fun p => may p ∨ may' p) s u :=
  onlyChanges_trans (onlyChanges_mono h fun _ => .inl) (onlyChanges_mono k fun _ => .inr)

theorem onlyChanges_setResultFlag (s : State) (x : Reg) (b : Byte) (c : Bool) :
    OnlyChanges (fun p => p = .v x ∨ p = .v regVF) s (s.setResultFlag x b c) :=
  onlyChanges_seq (onlyChanges_setV s x b) (onlyChanges_setV (s.setV x b) regVF (flagByte c))

theorem onlyChanges_dropTop (s : State) : OnlyChanges (fun p => p = .sp) s s.dropTop := by
  intro p hp
  cases p with
  | sp => exact absurd rfl hp
  | v k => exact State.getV_congr (State.dropTop_v s) k
  | mem a => exact State.readByte_congr (State.dropTop_mem s) a
  | _ => simp [Piece.same]

/-- A push changes `SP` and the two bytes of the new slot (42_control_flow.md rule R170). -/
theorem onlyChanges_push (s : State) (w : Word) :
    OnlyChanges (fun p => p = .sp ∨
      ∃ a : Fin 4096, p = .mem a ∧ (a.val = slotAddr (s.sp + 1#8) ∨ a.val = slotAddr (s.sp + 1#8) + 1)) s (s.push w) := by
  intro p hp
  cases p with
  | sp => exact absurd (.inl rfl) hp
  | v k => exact State.getV_congr (State.push_v s w) k
  | mem a =>
    have ha : a.val % 4096 = a.val := Nat.mod_eq_of_lt a.isLt
    simp only [Piece.same, State.readByte_push, ha]
    rw [if_neg fun e => hp (.inr ⟨a, rfl, .inl e⟩), if_neg fun e => hp (.inr ⟨a, rfl, .inr e⟩)]
  | _ => simp [Piece.same]

theorem onlyChanges_queryKey (s : State) : OnlyChanges (fun p => p = .keypad) s s.queryKey := by
  intro p hp
  cases p with
  | keypad => exact absurd rfl hp
  | v k => exact State.getV_congr (State.queryKey_v s) k
  | mem a => exact State.readByte_congr (State.queryKey_mem s) a
  | _ => simp [Piece.same]

theorem onlyChanges_queryKey_skipIf (s : State) (c : Bool) :
    OnlyChanges (fun p => p = .pc ∨ p = .keypad) s (s.queryKey.skipIf c) :=
  onlyChanges_mono (onlyChanges_seq (onlyChanges_queryKey s) (onlyChanges_skipIf s.queryKey c)) fun _ => Or.symm

theorem onlyChanges_dt (s : State) (b : Byte) : OnlyChanges (fun p => p = .dt) s { s with dt := b } := by
  intro p hp
  cases p with
  | dt => exact absurd rfl hp
  | v k => rfl
  | mem a => rfl
  | _ => simp [Piece.same]

theorem onlyChanges_st (s : State) (b : Byte) : OnlyChanges (fun p => p = .st) s { s with st := b } := by
  intro p hp
  cases p with
  | st => exact absurd rfl hp
  | v k => rfl
  | mem a => rfl
  | _ => simp [Piece.same]

theorem onlyChanges_grid (s : State) (g : Grid) :
    OnlyChanges (fun p => ∃ r c, p = .lit r c ∨ p = .phase r c) s { s with grid := g } := by
  intro p hp
  cases p with
  | lit r c => exact absurd ⟨r, c, .inl rfl⟩ hp
  | phase r c => exact absurd ⟨r, c, .inr rfl⟩ hp
  | v k => rfl
  | mem a => rfl
  | _ => simp [Piece.same]

/-- A block load changes the registers it loads (44_index_memory_timer_ops.md rule R225). -/
theorem onlyChanges_loadRegBlock (s : State) (a : Nat) {n : Nat} (hn : n ≤ 16) :
    OnlyChanges (fun p => ∃ j : Reg, j.val < n ∧ p = .v j) s (s.loadRegBlock a n) := by
  intro p hp
  cases p with
  | v k =>
    simp only [Piece.same, State.getV_loadRegBlock s a n hn]
    rw [if_neg fun h => hp ⟨k, h, rfl⟩]
  | mem k => exact State.readByte_congr (State.loadRegBlock_mem s a n) k
  | _ => simp [Piece.same]

/-! ### The frame of each instruction -/

/-- The pieces the instruction `i` may change when it runs in the state `s`. -/
def mayChange (i : Instr) (s : State) (p : Piece) : Prop :=
  match i with
  | .cls | .hrcls => ∃ r c, p = .lit r c ∨ p = .phase r c
  | .drw _ _ _ => p = .v regVF ∨ ∃ r c, p = .lit r c ∨ p = .phase r c
  | .ret => p = .sp ∨ p = .pc
  | .call _ => p = .sp ∨ p = .pc ∨
      ∃ a : Fin 4096, p = .mem a ∧ (a.val = slotAddr (s.sp + 1#8) ∨ a.val = slotAddr (s.sp + 1#8) + 1)
  | .jp _ | .jpV0 _ | .seImm _ _ | .sneImm _ _ | .seReg _ _ | .sneReg _ _ => p = .pc
  | .skp _ | .sknp _ => p = .pc ∨ p = .keypad
  | .ldImm x _ | .addImm x _ | .ldReg x _ | .orReg x _ | .andReg x _ | .xorReg x _ | .ldVxDt x => p = .v x
  | .addReg x _ | .subReg x _ | .shr x _ | .subnReg x _ | .shl x _ => p = .v x ∨ p = .v regVF
  | .rnd x _ => p = .v x ∨ p = .random
  | .ldI _ | .addI _ | .ldF _ => p = .i
  | .ldDtVx _ => p = .dt
  | .ldStVx _ => p = .st
  | .ldB _ => ∃ (j : Nat) (a : Fin 4096), j < 3 ∧ p = .mem a ∧ a.val = busAddr (s.elemAddr j)
  | .storeRegs x => ∃ (j : Nat) (a : Fin 4096), j ≤ x.val ∧ p = .mem a ∧ a.val = busAddr (s.elemAddr j)
  | .loadRegs x => ∃ j : Reg, j.val ≤ x.val ∧ p = .v j

theorem onlyChanges_exec_drw (s : State) (g : Grid) (b : Byte) :
    OnlyChanges (fun p => p = .v regVF ∨ ∃ r c, p = .lit r c ∨ p = .phase r c) s ({ s with grid := g }.setV regVF b) :=
  onlyChanges_mono (onlyChanges_seq (onlyChanges_grid s g) (onlyChanges_setV _ regVF b)) fun _ => Or.symm

theorem onlyChanges_exec_call (s : State) (w a : Word) :
    OnlyChanges (fun p => p = .sp ∨ p = .pc ∨
      ∃ a : Fin 4096, p = .mem a ∧ (a.val = slotAddr (s.sp + 1#8) ∨ a.val = slotAddr (s.sp + 1#8) + 1)) s
      ((s.push w).setPc a) := by
  refine onlyChanges_mono (onlyChanges_seq (onlyChanges_push s w) (onlyChanges_setPc (s.push w) a)) fun p h => ?_
  rwa [← or_assoc, or_right_comm]

theorem onlyChanges_exec_storeRegs (s : State) (x : Reg) :
    OnlyChanges (fun p => ∃ (j : Nat) (a : Fin 4096), j ≤ x.val ∧ p = .mem a ∧ a.val = busAddr (s.elemAddr j)) s
      (s.storeBytes (s.elemAddr 0) (s.regBlock x)) := by
  have hlen := s.length_regBlock x
  refine onlyChanges_mono (onlyChanges_storeBytes s (s.elemAddr 0) (s.regBlock x) (by omega)) ?_
  rintro p ⟨j, a, hj, hp, ha⟩
  exact ⟨j, a, by omega, hp, ha⟩

theorem onlyChanges_exec_loadRegs (s : State) (x : Reg) :
    OnlyChanges (fun p => ∃ j : Reg, j.val ≤ x.val ∧ p = .v j) s (s.loadRegBlock (s.elemAddr 0) (x.val + 1)) := by
  refine onlyChanges_mono (onlyChanges_loadRegBlock s (s.elemAddr 0) (by omega)) ?_
  rintro p ⟨j, hj, hp⟩
  exact ⟨j, Nat.le_of_lt_succ hj, hp⟩

/-- An instruction answers a next state, and changes nothing but what `mayChange` names. -/
theorem exec_frame (i : Instr) (s : State) : ∃ t, exec i s = .next t ∧ OnlyChanges (mayChange i s) s t := by
  cases i with
  | cls => exact ⟨_, rfl, onlyChanges_clearGrid s⟩
  | hrcls => exact ⟨_, rfl, onlyChanges_clearGrid s⟩
  | drw x y n => exact ⟨_, rfl, onlyChanges_exec_drw s _ _⟩
  | ret => exact ⟨_, rfl, onlyChanges_seq (onlyChanges_dropTop s) (onlyChanges_setPc s.dropTop _)⟩
  | call nnn => exact ⟨_, rfl, onlyChanges_exec_call s _ _⟩
  | jp nnn => exact ⟨_, rfl, onlyChanges_setPc s _⟩
  | jpV0 nnn => exact ⟨_, rfl, onlyChanges_setPc s _⟩
  | seImm x kk => exact ⟨_, rfl, onlyChanges_skipIf s _⟩
  | sneImm x kk => exact ⟨_, rfl, onlyChanges_skipIf s _⟩
  | seReg x y => exact ⟨_, rfl, onlyChanges_skipIf s _⟩
  | sneReg x y => exact ⟨_, rfl, onlyChanges_skipIf s _⟩
  | skp x => exact ⟨_, rfl, onlyChanges_queryKey_skipIf s _⟩
  | sknp x => exact ⟨_, rfl, onlyChanges_queryKey_skipIf s _⟩
  | ldImm x kk => exact ⟨_, rfl, onlyChanges_setV s x _⟩
  | addImm x kk => exact ⟨_, rfl, onlyChanges_setV s x _⟩
  | ldReg x y => exact ⟨_, rfl, onlyChanges_setV s x _⟩
  | orReg x y => exact ⟨_, rfl, onlyChanges_setV s x _⟩
  | andReg x y => exact ⟨_, rfl, onlyChanges_setV s x _⟩
  | xorReg x y => exact ⟨_, rfl, onlyChanges_setV s x _⟩
  | ldVxDt x => exact ⟨_, rfl, onlyChanges_setV s x _⟩
  | addReg x y => exact ⟨_, rfl, onlyChanges_setResultFlag s x _ _⟩
  | subReg x y => exact ⟨_, rfl, onlyChanges_setResultFlag s x _ _⟩
  | shr x y => exact ⟨_, rfl, onlyChanges_setResultFlag s x _ _⟩
  | subnReg x y => exact ⟨_, rfl, onlyChanges_setResultFlag s x _ _⟩
  | shl x y => exact ⟨_, rfl, onlyChanges_setResultFlag s x _ _⟩
  | rnd x kk => exact ⟨_, rfl, onlyChanges_queryRandom_setV s x _⟩
  | ldI nnn => exact ⟨_, rfl, onlyChanges_setI s _⟩
  | addI x => exact ⟨_, rfl, onlyChanges_setI s _⟩
  | ldF x => exact ⟨_, rfl, onlyChanges_setI s _⟩
  | ldDtVx x => exact ⟨_, rfl, onlyChanges_dt s _⟩
  | ldStVx x => exact ⟨_, rfl, onlyChanges_st s _⟩
  | ldB x =>
    refine ⟨_, rfl, onlyChanges_mono (onlyChanges_storeBytes s (s.elemAddr 0) (bcdDigits (s.getV x)) ?_) fun _ h => h⟩
    rw [length_bcdDigits]; decide
  | storeRegs x => exact ⟨_, exec_storeRegs s x, onlyChanges_exec_storeRegs s x⟩
  | loadRegs x => exact ⟨_, exec_loadRegs s x, onlyChanges_exec_loadRegs s x⟩

theorem onlyChanges_exec {i : Instr} {s t : State} (h : exec i s = .next t) : OnlyChanges (mayChange i s) s t := by
  obtain ⟨u, hu, hframe⟩ := exec_frame i s
  cases hu.symm.trans h
  exact hframe

/-- What an instruction did change is among what it may change. -/
theorem mayChange_of_not_same {i : Instr} {s t : State} (h : exec i s = .next t) {p : Piece} (hp : ¬ p.same s t) :
    mayChange i s p := by
  by_contra hn
  exact hp (onlyChanges_exec h p hn)

end Sys2Proof.Machine
end

section
/-! Proofs about encoding (30_encoding.md): decode and encode are inverse, row by row of the opcode map and format by format
(rule R93), and the words no row takes. -/

namespace Sys2Proof

/-! ### Decoding what was encoded: a lemma per format -/

/-- An instruction whose word matches row `k`, and which that row builds back, is what its bytes decode to. -/
theorem decode_encode_of_row {i : Instr} {r : Row} (k : Nat) (hrow : opcodeRows[k]? = some r)
    (hmatch : encode i &&& r.mask = r.value) (hbuild : r.build (encode i) = i) :
    decode (encodeHi i) (encodeLo i) = .ok i := by
  rw [← encode_bytes] at hmatch hbuild
  rw [decode_of_matches (List.mem_of_getElem? hrow) ((Row.matches_iff _ _).2 hmatch), hbuild]

/-- Format `NNN`. -/
theorem decode_encode_nnn (f : Addr12 → Instr) (k : Nat) {n0 : BitVec 4} {mnemonic : String}
    (hf : ∀ a, encode (f a) = packNNN n0 a)
    (hrow : opcodeRows[k]? = some ⟨mnemonic, packNNN n0 0#12, 0xF000#16, fun w => f (fieldNNN w)⟩) (a : Addr12) :
    decode (encodeHi (f a)) (encodeLo (f a)) = .ok (f a) :=
  decode_encode_of_row k hrow (by simp only [hf, packNNN_and]) (by simp only [hf, fieldNNN_packNNN])

/-- Format `XKK`. -/
theorem decode_encode_xkk (f : Reg → Byte → Instr) (k : Nat) {n0 : BitVec 4} {mnemonic : String}
    (hf : ∀ x kk, encode (f x kk) = packXKK n0 x kk)
    (hrow : opcodeRows[k]? = some ⟨mnemonic, packNNN n0 0#12, 0xF000#16, fun w => f (fieldX w) (fieldKK w)⟩)
    (x : Reg) (kk : Byte) : decode (encodeHi (f x kk)) (encodeLo (f x kk)) = .ok (f x kk) :=
  decode_encode_of_row k hrow (by simp only [hf, packXKK_and]) (by simp only [hf, fieldX_packXKK, fieldKK_packXKK])

/-- Format `X`: the low byte selects the instruction. -/
theorem decode_encode_x (f : Reg → Instr) (k : Nat) {n0 : BitVec 4} {low : Byte} {mnemonic : String}
    (hf : ∀ x, encode (f x) = packXKK n0 x low)
    (hrow : opcodeRows[k]? = some ⟨mnemonic, packXKK n0 0 low, 0xF0FF#16, fun w => f (fieldX w)⟩) (x : Reg) :
    decode (encodeHi (f x)) (encodeLo (f x)) = .ok (f x) :=
  decode_encode_of_row k hrow (by simp only [hf, packXKK_and_low]) (by simp only [hf, fieldX_packXKK])

/-- Format `XY`: the low nibble selects the instruction. -/
theorem decode_encode_xy (f : Reg → Reg → Instr) (k : Nat) {n0 n3 : BitVec 4} {mnemonic : String}
    (hf : ∀ x y, encode (f x y) = packXY n0 x y n3)
    (hrow : opcodeRows[k]? = some ⟨mnemonic, packXY n0 0 0 n3, 0xF00F#16, fun w => f (fieldX w) (fieldY w)⟩) (x y : Reg) :
    decode (encodeHi (f x y)) (encodeLo (f x y)) = .ok (f x y) :=
  decode_encode_of_row k hrow (by simp only [hf, packXY_and_low]) (by simp only [hf, fieldX_packXY, fieldY_packXY])

/-- Format `XYN`: the count comes back when it fits its nibble. -/
theorem decode_encode_drw (x y : Reg) {n : Nat} (hn : n < 16) :
    decode (encodeHi (.drw x y n)) (encodeLo (.drw x y n)) = .ok (.drw x y n) := by
  refine decode_encode_of_row 14 rfl (packXY_and _ x y _) ?_
  have hcount : (BitVec.ofNat 4 n).toNat = n := by rw [BitVec.toNat_ofNat, Nat.mod_eq_of_lt hn]
  simp only [encode, fieldX_packXY, fieldY_packXY, fieldN_packXY, hcount]

/-- Settles O1, by the format of each instruction: its word matches its row, and the row reads its operands back. -/
theorem decodeEncodeRoundTrip : Obligations.DecodeEncodeRoundTrip := by
  intro i hwf
  cases i with
  | cls => decide
  | ret => decide
  | hrcls => decide
  | jp nnn => exact decode_encode_nnn .jp 3 (fun _ => rfl) rfl nnn
  | call nnn => exact decode_encode_nnn .call 4 (fun _ => rfl) rfl nnn
  | seImm x kk => exact decode_encode_xkk .seImm 5 (fun _ _ => rfl) rfl x kk
  | sneImm x kk => exact decode_encode_xkk .sneImm 6 (fun _ _ => rfl) rfl x kk
  | seReg x y => exact decode_encode_xy .seReg 7 (fun _ _ => rfl) rfl x y
  | ldImm x kk => exact decode_encode_xkk .ldImm 8 (fun _ _ => rfl) rfl x kk
  | addImm x kk => exact decode_encode_xkk .addImm 9 (fun _ _ => rfl) rfl x kk
  | sneReg x y => exact decode_encode_xy .sneReg 10 (fun _ _ => rfl) rfl x y
  | ldI nnn => exact decode_encode_nnn .ldI 11 (fun _ => rfl) rfl nnn
  | jpV0 nnn => exact decode_encode_nnn .jpV0 12 (fun _ => rfl) rfl nnn
  | rnd x kk => exact decode_encode_xkk .rnd 13 (fun _ _ => rfl) rfl x kk
  | drw x y n => exact decode_encode_drw x y (of_decide_eq_true hwf)
  | ldReg x y => exact decode_encode_xy .ldReg 15 (fun _ _ => rfl) rfl x y
  | orReg x y => exact decode_encode_xy .orReg 16 (fun _ _ => rfl) rfl x y
  | andReg x y => exact decode_encode_xy .andReg 17 (fun _ _ => rfl) rfl x y
  | xorReg x y => exact decode_encode_xy .xorReg 18 (fun _ _ => rfl) rfl x y
  | addReg x y => exact decode_encode_xy .addReg 19 (fun _ _ => rfl) rfl x y
  | subReg x y => exact decode_encode_xy .subReg 20 (fun _ _ => rfl) rfl x y
  | shr x y => exact decode_encode_xy .shr 21 (fun _ _ => rfl) rfl x y
  | subnReg x y => exact decode_encode_xy .subnReg 22 (fun _ _ => rfl) rfl x y
  | shl x y => exact decode_encode_xy .shl 23 (fun _ _ => rfl) rfl x y
  | skp x => exact decode_encode_x .skp 24 (fun _ => rfl) rfl x
  | sknp x => exact decode_encode_x .sknp 25 (fun _ => rfl) rfl x
  | ldVxDt x => exact decode_encode_x .ldVxDt 26 (fun _ => rfl) rfl x
  | ldDtVx x => exact decode_encode_x .ldDtVx 27 (fun _ => rfl) rfl x
  | ldStVx x => exact decode_encode_x .ldStVx 28 (fun _ => rfl) rfl x
  | addI x => exact decode_encode_x .addI 29 (fun _ => rfl) rfl x
  | ldF x => exact decode_encode_x .ldF 30 (fun _ => rfl) rfl x
  | ldB x => exact decode_encode_x .ldB 31 (fun _ => rfl) rfl x
  | storeRegs x => exact decode_encode_x .storeRegs 32 (fun _ => rfl) rfl x
  | loadRegs x => exact decode_encode_x .loadRegs 33 (fun _ => rfl) rfl x

/-- Settles O5, by running the decoder on the six words. -/
theorem writtenOutWordsDecode : Obligations.WrittenOutWordsDecode := by
  refine ⟨?_, ?_, ?_, ?_, ?_, ?_⟩ <;> decide

/-! ### Encoding what was decoded: a word is its fields (rule R92) -/

theorem packNNN_fields (w : Word) : packNNN (fieldN0 w) (fieldNNN w) = w := by
  apply BitVec.eq_of_getLsbD_eq
  intro i hi
  rw [packNNN_bit, fieldNNN, fieldN0, BitVec.getLsbD_extractLsb', BitVec.getLsbD_extractLsb']
  interval_cases i <;> simp

theorem packXKK_fields (w : Word) : packXKK (fieldN0 w) (fieldX w) (fieldKK w) = w := by
  apply BitVec.eq_of_getLsbD_eq
  intro i hi
  rw [packXKK_bit, fieldKK, fieldN0, fieldX, BitVec.ofFin_toFin]
  simp only [BitVec.getLsbD_extractLsb']
  interval_cases i <;> simp

/-- `n3` as the nibble it is, before it is read as a count. -/
theorem packXY_fields (w : Word) : packXY (fieldN0 w) (fieldX w) (fieldY w) (w.extractLsb' 0 4) = w := by
  apply BitVec.eq_of_getLsbD_eq
  intro i hi
  rw [packXY_bit, fieldN0, fieldX, fieldY, BitVec.ofFin_toFin, BitVec.ofFin_toFin]
  simp only [BitVec.getLsbD_extractLsb']
  interval_cases i <;> simp

/-- A field that a row's mask covers is, in a word the row matches, the one in the row's value. -/
theorem extract_of_matches {mnemonic : String} {v m w : Word} {build : Word → Instr}
    (h : Row.matches ⟨mnemonic, v, m, build⟩ w = true) (a n : Nat) (hm : m.extractLsb' a n = BitVec.allOnes n) :
    w.extractLsb' a n = v.extractLsb' a n := by
  have hv : w &&& m = v := (Row.matches_iff _ w).1 h
  rw [← hv, BitVec.extractLsb'_and, hm, BitVec.and_allOnes]

/-- Every word the row matches is the word of the instruction the row builds from it, and that is well formed. -/
def Row.Faithful (r : Row) : Prop := ∀ w, r.matches w = true → (r.build w).wellFormed = true ∧ encode (r.build w) = w

/-- A full 16-bit match. -/
theorem faithful_full (i : Instr) {mnemonic : String} (hwf : i.wellFormed = true) :
    Row.Faithful ⟨mnemonic, encode i, 0xFFFF#16, fun _ => i⟩ := by
  intro w hw
  have hval : w &&& BitVec.allOnes 16 = encode i := (Row.matches_iff _ _).1 hw
  exact ⟨hwf, by rw [← hval, BitVec.and_allOnes]⟩

theorem faithful_nnn (f : Addr12 → Instr) {v : Word} {mnemonic : String}
    (hf : ∀ a, (f a).wellFormed = true ∧ encode (f a) = packNNN (fieldN0 v) a) :
    Row.Faithful ⟨mnemonic, v, 0xF000#16, fun w => f (fieldNNN w)⟩ := by
  intro w hw
  have hn0 : fieldN0 w = fieldN0 v := extract_of_matches hw 12 4 (by decide)
  exact ⟨(hf _).1, by rw [(hf _).2, ← hn0, packNNN_fields]⟩

theorem faithful_xkk (f : Reg → Byte → Instr) {v : Word} {mnemonic : String}
    (hf : ∀ x kk, (f x kk).wellFormed = true ∧ encode (f x kk) = packXKK (fieldN0 v) x kk) :
    Row.Faithful ⟨mnemonic, v, 0xF000#16, fun w => f (fieldX w) (fieldKK w)⟩ := by
  intro w hw
  have hn0 : fieldN0 w = fieldN0 v := extract_of_matches hw 12 4 (by decide)
  exact ⟨(hf _ _).1, by rw [(hf _ _).2, ← hn0, packXKK_fields]⟩

theorem faithful_x (f : Reg → Instr) {v : Word} {mnemonic : String}
    (hf : ∀ x, (f x).wellFormed = true ∧ encode (f x) = packXKK (fieldN0 v) x (fieldKK v)) :
    Row.Faithful ⟨mnemonic, v, 0xF0FF#16, fun w => f (fieldX w)⟩ := by
  intro w hw
  have hn0 : fieldN0 w = fieldN0 v := extract_of_matches hw 12 4 (by decide)
  have hkk : fieldKK w = fieldKK v := extract_of_matches hw 0 8 (by decide)
  exact ⟨(hf _).1, by rw [(hf _).2, ← hn0, ← hkk, packXKK_fields]⟩

theorem faithful_xy (f : Reg → Reg → Instr) {v : Word} {mnemonic : String}
    (hf : ∀ x y, (f x y).wellFormed = true ∧ encode (f x y) = packXY (fieldN0 v) x y (v.extractLsb' 0 4)) :
    Row.Faithful ⟨mnemonic, v, 0xF00F#16, fun w => f (fieldX w) (fieldY w)⟩ := by
  intro w hw
  have hn0 : fieldN0 w = fieldN0 v := extract_of_matches hw 12 4 (by decide)
  have hn3 : w.extractLsb' 0 4 = v.extractLsb' 0 4 := extract_of_matches hw 0 4 (by decide)
  exact ⟨(hf _ _).1, by rw [(hf _ _).2, ← hn0, ← hn3, packXY_fields]⟩

/-- The count of DRW is a nibble, so it is below 16 and nothing of it is lost. -/
theorem faithful_drw {mnemonic : String} :
    Row.Faithful ⟨mnemonic, 0xD000#16, 0xF000#16, fun w => .drw (fieldX w) (fieldY w) (fieldN w)⟩ := by
  intro w hw
  have hn0 : fieldN0 w = fieldN0 0xD000#16 := extract_of_matches hw 12 4 (by decide)
  refine ⟨decide_eq_true (BitVec.isLt _), ?_⟩
  show packXY (fieldN0 0xD000#16) (fieldX w) (fieldY w) (BitVec.ofNat 4 (w.extractLsb' 0 4).toNat) = w
  rw [← hn0, BitVec.ofNat_toNat, BitVec.setWidth_eq, packXY_fields]

theorem rowsZero_faithful : ∀ r ∈ rowsZero, r.Faithful := by
  simp only [rowsZero, List.forall_mem_cons, List.not_mem_nil, IsEmpty.forall_iff, implies_true, and_true]
  exact ⟨faithful_full .cls rfl, faithful_full .ret rfl, faithful_full .hrcls rfl⟩

theorem rowsPrimary_faithful : ∀ r ∈ rowsPrimary, r.Faithful := by
  simp only [rowsPrimary, List.forall_mem_cons, List.not_mem_nil, IsEmpty.forall_iff, implies_true, and_true]
  exact ⟨faithful_nnn .jp fun _ => ⟨rfl, rfl⟩, faithful_nnn .call fun _ => ⟨rfl, rfl⟩,
    faithful_xkk .seImm fun _ _ => ⟨rfl, rfl⟩, faithful_xkk .sneImm fun _ _ => ⟨rfl, rfl⟩,
    faithful_xy .seReg fun _ _ => ⟨rfl, rfl⟩, faithful_xkk .ldImm fun _ _ => ⟨rfl, rfl⟩,
    faithful_xkk .addImm fun _ _ => ⟨rfl, rfl⟩, faithful_xy .sneReg fun _ _ => ⟨rfl, rfl⟩,
    faithful_nnn .ldI fun _ => ⟨rfl, rfl⟩, faithful_nnn .jpV0 fun _ => ⟨rfl, rfl⟩,
    faithful_xkk .rnd fun _ _ => ⟨rfl, rfl⟩, faithful_drw⟩

theorem rowsAlu_faithful : ∀ r ∈ rowsAlu, r.Faithful := by
  simp only [rowsAlu, List.forall_mem_cons, List.not_mem_nil, IsEmpty.forall_iff, implies_true, and_true]
  exact ⟨faithful_xy .ldReg fun _ _ => ⟨rfl, rfl⟩, faithful_xy .orReg fun _ _ => ⟨rfl, rfl⟩,
    faithful_xy .andReg fun _ _ => ⟨rfl, rfl⟩, faithful_xy .xorReg fun _ _ => ⟨rfl, rfl⟩,
    faithful_xy .addReg fun _ _ => ⟨rfl, rfl⟩, faithful_xy .subReg fun _ _ => ⟨rfl, rfl⟩,
    faithful_xy .shr fun _ _ => ⟨rfl, rfl⟩, faithful_xy .subnReg fun _ _ => ⟨rfl, rfl⟩,
    faithful_xy .shl fun _ _ => ⟨rfl, rfl⟩⟩

theorem rowsKey_faithful : ∀ r ∈ rowsKey, r.Faithful := by
  simp only [rowsKey, List.forall_mem_cons, List.not_mem_nil, IsEmpty.forall_iff, implies_true, and_true]
  exact ⟨faithful_x .skp fun _ => ⟨rfl, rfl⟩, faithful_x .sknp fun _ => ⟨rfl, rfl⟩⟩

theorem rowsMisc_faithful : ∀ r ∈ rowsMisc, r.Faithful := by
  simp only [rowsMisc, List.forall_mem_cons, List.not_mem_nil, IsEmpty.forall_iff, implies_true, and_true]
  exact ⟨faithful_x .ldVxDt fun _ => ⟨rfl, rfl⟩, faithful_x .ldDtVx fun _ => ⟨rfl, rfl⟩,
    faithful_x .ldStVx fun _ => ⟨rfl, rfl⟩, faithful_x .addI fun _ => ⟨rfl, rfl⟩, faithful_x .ldF fun _ => ⟨rfl, rfl⟩,
    faithful_x .ldB fun _ => ⟨rfl, rfl⟩, faithful_x .storeRegs fun _ => ⟨rfl, rfl⟩,
    faithful_x .loadRegs fun _ => ⟨rfl, rfl⟩⟩

theorem opcodeRows_faithful : ∀ r ∈ opcodeRows, r.Faithful := by
  simp only [opcodeRows, List.forall_mem_append]
  exact ⟨⟨⟨⟨rowsZero_faithful, rowsPrimary_faithful⟩, rowsAlu_faithful⟩, rowsKey_faithful⟩, rowsMisc_faithful⟩

/-- What decodes is a well-formed instruction whose word is the two bytes. -/
theorem encode_of_decode {hi lo : Byte} {i : Instr} (h : decode hi lo = .ok i) :
    i.wellFormed = true ∧ encode i = hi ++ lo := by
  rcases decode_cases hi lo with ⟨r, hr, hmatch, hdec⟩ | ⟨_, hdec⟩
  · cases hdec.symm.trans h
    exact opcodeRows_faithful r hr _ hmatch
  · cases hdec.symm.trans h

/-- Settles O2, by the faithfulness of every row: the word is its fields, and the row keeps each of them. -/
theorem encodeDecodeRoundTrip : Obligations.EncodeDecodeRoundTrip := by
  intro hi lo i h
  obtain ⟨hwf, hword⟩ := encode_of_decode h
  refine ⟨hwf, ?_, ?_⟩
  · rw [encodeHi, hword, BitVec.extractLsb'_append_eq_left]
  · rw [encodeLo, hword, BitVec.extractLsb'_append_eq_right]

/-! ### The words no row takes (30_encoding.md section 4) -/

theorem toNat_fieldN0_append (hi lo : Byte) : (fieldN0 (hi ++ lo)).toNat = hi.toNat / 16 := by
  have := hi.isLt
  rw [fieldN0_append, BitVec.extractLsb'_toNat, Nat.shiftRight_eq_div_pow]
  omega

theorem fieldN_append_mod (hi lo : Byte) : fieldN (hi ++ lo) = lo.toNat % 16 := by
  rw [fieldN_append, BitVec.extractLsb'_toNat, Nat.shiftRight_zero]

/-- A row whose mask covers the primary opcode alone compares that (rule R96). -/
theorem matches_primary_iff {mnemonic : String} {v : Word} {build : Word → Instr} (hv : v &&& 0xF000#16 = v) (hi lo : Byte) :
    Row.matches ⟨mnemonic, v, 0xF000#16, build⟩ (hi ++ lo) = true ↔ hi.toNat / 16 = (fieldN0 v).toNat := by
  have hand (w : Word) : w &&& 0xF000#16 = packNNN (fieldN0 w) 0#12 := by
    conv_lhs => rw [← packNNN_fields w, packNNN_and]
  rw [← toNat_fieldN0_append hi lo, BitVec.toNat_inj]
  refine ⟨fun h => extract_of_matches h 12 4 (by decide), fun h => (Row.matches_iff _ _).2 ?_⟩
  show _ &&& 0xF000#16 = v
  rw [hand, h, ← hand, hv]

/-- A row whose mask covers the primary opcode and `n3` (rule R96, rule R97). -/
theorem matches_low_nibble_iff {mnemonic : String} {v : Word} {build : Word → Instr} (hv : v &&& 0xF00F#16 = v)
    (hi lo : Byte) :
    Row.matches ⟨mnemonic, v, 0xF00F#16, build⟩ (hi ++ lo) = true ↔
      hi.toNat / 16 = (fieldN0 v).toNat ∧ lo.toNat % 16 = fieldN v := by
  have hand (w : Word) : w &&& 0xF00F#16 = packXY (fieldN0 w) 0 0 (w.extractLsb' 0 4) := by
    conv_lhs => rw [← packXY_fields w, packXY_and_low]
  rw [← toNat_fieldN0_append hi lo, ← fieldN_append_mod hi lo, BitVec.toNat_inj, fieldN, fieldN, BitVec.toNat_inj]
  refine ⟨fun h => ⟨extract_of_matches h 12 4 (by decide), extract_of_matches h 0 4 (by decide)⟩,
    fun h => (Row.matches_iff _ _).2 ?_⟩
  show _ &&& 0xF00F#16 = v
  rw [hand, h.1, h.2, ← hand, hv]

/-- A row whose mask covers the primary opcode and the low byte (rule R98, rule R99). -/
theorem matches_low_byte_iff {mnemonic : String} {v : Word} {build : Word → Instr} (hv : v &&& 0xF0FF#16 = v)
    (hi lo : Byte) :
    Row.matches ⟨mnemonic, v, 0xF0FF#16, build⟩ (hi ++ lo) = true ↔
      hi.toNat / 16 = (fieldN0 v).toNat ∧ lo = fieldKK v := by
  have hand (w : Word) : w &&& 0xF0FF#16 = packXKK (fieldN0 w) 0 (fieldKK w) := by
    conv_lhs => rw [← packXKK_fields w, packXKK_and_low]
  have hlo : lo = fieldKK v ↔ fieldKK (hi ++ lo) = fieldKK v := by rw [fieldKK_append]
  rw [← toNat_fieldN0_append hi lo, BitVec.toNat_inj, hlo]
  refine ⟨fun h => ⟨extract_of_matches h 12 4 (by decide), extract_of_matches h 0 8 (by decide)⟩,
    fun h => (Row.matches_iff _ _).2 ?_⟩
  show _ &&& 0xF0FF#16 = v
  rw [hand, h.1, h.2, ← hand, hv]

/-- A full 16-bit match compares both bytes (rule R95). -/
theorem matches_full_iff {mnemonic : String} {v : Word} {build : Word → Instr} (hi lo : Byte) :
    Row.matches ⟨mnemonic, v, 0xFFFF#16, build⟩ (hi ++ lo) = true ↔
      hi = v.extractLsb' 8 8 ∧ lo = v.extractLsb' 0 8 := by
  have hall : (hi ++ lo) &&& 0xFFFF#16 = hi ++ lo := BitVec.and_allOnes
  rw [Row.matches_iff, hall]
  constructor
  · rintro rfl
    rw [BitVec.extractLsb'_append_eq_left, BitVec.extractLsb'_append_eq_right]
    exact ⟨rfl, rfl⟩
  · rintro ⟨rfl, rfl⟩
    exact word_of_bytes v

/-- The decoder rejects exactly what no row matches. -/
theorem decode_rejects_iff (hi lo : Byte) :
    decode hi lo = .error (.unknownOpcode hi lo) ↔ ∀ r ∈ opcodeRows, ¬ r.matches (hi ++ lo) = true := by
  simp only [Bool.not_eq_true]
  rcases decode_cases hi lo with ⟨r, hr, hmatch, hdec⟩ | ⟨hnone, hdec⟩
  · refine ⟨fun h => ?_, fun h => ?_⟩
    · cases hdec.symm.trans h
    · cases hmatch.symm.trans (h r hr)
  · exact ⟨fun _ => hnone, fun _ => hdec⟩

theorem rowsZero_unmatched (hi lo : Byte) : (∀ r ∈ rowsZero, ¬ r.matches (hi ++ lo) = true) ↔
    ¬(hi = 0x00#8 ∧ lo = 0xE0#8) ∧ ¬(hi = 0x00#8 ∧ lo = 0xEE#8) ∧ ¬(hi = 0x02#8 ∧ lo = 0x30#8) := by
  simp only [rowsZero, hrclsWord, List.forall_mem_cons, List.not_mem_nil, IsEmpty.forall_iff, implies_true,
    and_true, matches_full_iff]
  simp

theorem rowsPrimary_unmatched (hi lo : Byte) : (∀ r ∈ rowsPrimary, ¬ r.matches (hi ++ lo) = true) ↔
    (hi.toNat / 16 = 0 ∨ hi.toNat / 16 = 8 ∨ 14 ≤ hi.toNat / 16) ∨
    ((hi.toNat / 16 = 5 ∨ hi.toNat / 16 = 9) ∧ lo.toNat % 16 ≠ 0) := by
  simp (disch := decide) only [rowsPrimary, List.forall_mem_cons, List.not_mem_nil, IsEmpty.forall_iff, implies_true,
    and_true, matches_primary_iff, matches_low_nibble_iff, fieldN0, fieldN]
  simp
  omega

theorem rowsAlu_unmatched (hi lo : Byte) : (∀ r ∈ rowsAlu, ¬ r.matches (hi ++ lo) = true) ↔
    (hi.toNat / 16 = 8 → 8 ≤ lo.toNat % 16 ∧ lo.toNat % 16 ≠ 14) := by
  simp (disch := decide) only [rowsAlu, List.forall_mem_cons, List.not_mem_nil, IsEmpty.forall_iff, implies_true,
    and_true, matches_low_nibble_iff, fieldN0, fieldN]
  simp
  omega

theorem rowsKey_unmatched (hi lo : Byte) : (∀ r ∈ rowsKey, ¬ r.matches (hi ++ lo) = true) ↔
    (hi.toNat / 16 = 14 → lo ≠ 0x9E#8 ∧ lo ≠ 0xA1#8) := by
  simp (disch := decide) only [rowsKey, List.forall_mem_cons, List.not_mem_nil, IsEmpty.forall_iff, implies_true,
    and_true, matches_low_byte_iff, fieldN0, fieldKK]
  by_cases h : hi.toNat / 16 = 14 <;> simp [h]

theorem rowsMisc_unmatched (hi lo : Byte) : (∀ r ∈ rowsMisc, ¬ r.matches (hi ++ lo) = true) ↔
    (hi.toNat / 16 = 15 → lo ≠ 0x07#8 ∧ lo ≠ 0x15#8 ∧ lo ≠ 0x18#8 ∧ lo ≠ 0x1E#8 ∧ lo ≠ 0x29#8 ∧ lo ≠ 0x33#8 ∧
      lo ≠ 0x55#8 ∧ lo ≠ 0x65#8) := by
  simp (disch := decide) only [rowsMisc, List.forall_mem_cons, List.not_mem_nil, IsEmpty.forall_iff, implies_true,
    and_true, matches_low_byte_iff, fieldN0, fieldKK]
  by_cases h : hi.toNat / 16 = 15 <;> simp [h]

/-- Settles O4, by what each group of rows leaves unmatched; the primary opcode says which group decides. -/
theorem unmatchedWordsByNibble : Obligations.UnmatchedWordsByNibble := by
  intro hi lo
  have hn0 : hi.toNat / 16 < 16 := by have := hi.isLt; omega
  have hn3 : lo.toNat % 16 < 16 := Nat.mod_lt _ (by decide)
  have hzero : hi = 0x00#8 → hi.toNat / 16 = 0 := by rintro rfl; rfl
  have htwo : hi = 0x02#8 → hi.toNat / 16 = 0 := by rintro rfl; rfl
  rw [decode_rejects_iff]
  simp only [opcodeRows, List.forall_mem_append, rowsZero_unmatched, rowsPrimary_unmatched, rowsAlu_unmatched,
    rowsKey_unmatched, rowsMisc_unmatched]
  generalize hi.toNat / 16 = n0 at *
  generalize lo.toNat % 16 = n3 at *
  interval_cases n0 <;> simp_all
  omega

end Sys2Proof
end

section
/-! Proofs about arithmetic and control flow (41_alu.md, 42_control_flow.md, 45_random_input.md): the value of each result, flag
and target; the frames are those of the operations. -/

namespace Sys2Proof.Machine

open Sys2Proof.Safety

/-! ### Flags -/

theorem toNat_flagByte_decide (p : Prop) [Decidable p] : (flagByte (decide p)).toNat = if p then 1 else 0 := by
  by_cases h : p <;> simp [flagByte, h]

theorem flagByte_eq_one_iff (c : Bool) : flagByte c = 0x01#8 ↔ c = true := by
  cases c <;> decide

theorem flagByte_zero_or_one (c : Bool) : flagByte c = 0x00#8 ∨ flagByte c = 0x01#8 := by
  cases c <;> decide

theorem State.getV_setResultFlag_vf (s : State) (x : Reg) (b : Byte) (c : Bool) :
    (s.setResultFlag x b c).getV regVF = flagByte c := by
  rw [State.getV_setResultFlag, if_pos rfl]

theorem State.getV_setResultFlag_dest (s : State) {x : Reg} (b : Byte) (c : Bool) (hx : x ≠ regVF) :
    (s.setResultFlag x b c).getV x = b := by
  rw [State.getV_setResultFlag, if_neg hx, if_pos rfl]

theorem toNat_carryOf (a b : Byte) : (flagByte (carryOf a b)).toNat = if 255 < a.toNat + b.toNat then 1 else 0 :=
  toNat_flagByte_decide _

theorem toNat_greaterOf (a b : Byte) : (flagByte (greaterOf a b)).toNat = if b.toNat < a.toNat then 1 else 0 :=
  toNat_flagByte_decide _

theorem toNat_outOfShr (a : Byte) : (flagByte (outOfShr a)).toNat = a.toNat % 2 := by
  rw [outOfShr, BitVec.getLsbD, Nat.testBit_zero, toNat_flagByte_decide]
  split <;> omega

theorem toNat_outOfShl (a : Byte) : (flagByte (outOfShl a)).toNat = a.toNat / 128 := by
  have := a.isLt
  rw [outOfShl, BitVec.getLsbD, Nat.testBit_eq_decide_div_mod_eq, toNat_flagByte_decide]
  split <;> omega

theorem toNat_sub_byte (a b : Byte) : (a - b).toNat = (a.toNat + 256 - b.toNat) % 256 := by
  have := b.isLt
  rw [BitVec.toNat_sub]
  omega

/-! ### Arithmetic and shifts -/

/-- Settles O20, by the wrapped sum, the carry as a number and the frames of a register write and of a result with its flag. -/
theorem additionsWrapAndCarry : Obligations.AdditionsWrapAndCarry := by
  intro s x y kk
  refine ⟨⟨_, exec_addImm s x kk, ?_, onlyChanges_setV s x _⟩,
    ⟨_, exec_addReg s x y, fun hx => ?_, ?_, onlyChanges_setResultFlag s x _ _⟩⟩
  · rw [State.getV_setV_same, BitVec.toNat_add]
  · rw [State.getV_setResultFlag_dest s _ _ hx, BitVec.toNat_add]
  · rw [State.getV_setResultFlag_vf, toNat_carryOf]

/-- Settles O21, by the wrapped difference and the strict comparison as a number. -/
theorem subtractionsSetStrictlyGreater : Obligations.SubtractionsSetStrictlyGreater := by
  intro s x y
  refine ⟨⟨_, exec_subReg s x y, fun hx => ?_, ?_, onlyChanges_setResultFlag s x _ _⟩,
    ⟨_, exec_subnReg s x y, fun hx => ?_, ?_, onlyChanges_setResultFlag s x _ _⟩⟩
  · rw [State.getV_setResultFlag_dest s _ _ hx, toNat_sub_byte]
  · rw [State.getV_setResultFlag_vf, toNat_greaterOf]
  · rw [State.getV_setResultFlag_dest s _ _ hx, toNat_sub_byte]
  · rw [State.getV_setResultFlag_vf, toNat_greaterOf]

/-- Settles O22, by halving and doubling and the bit each shift moves out. -/
theorem shiftsMoveOneBitOut : Obligations.ShiftsMoveOneBitOut := by
  intro s x y
  refine ⟨⟨_, exec_shr s x y, fun hx => ?_, ?_, onlyChanges_setResultFlag s x _ _⟩,
    ⟨_, exec_shl s x y, fun hx => ?_, ?_, onlyChanges_setResultFlag s x _ _⟩⟩
  · rw [State.getV_setResultFlag_dest s _ _ hx, BitVec.toNat_ushiftRight, Nat.shiftRight_eq_div_pow, Nat.pow_one]
  · rw [State.getV_setResultFlag_vf, toNat_outOfShr]
  · rw [State.getV_setResultFlag_dest s _ _ hx, BitVec.toNat_shiftLeft, Nat.shiftLeft_eq, Nat.pow_one, Nat.mul_comm]
  · rw [State.getV_setResultFlag_vf, toNat_outOfShl]

/-! ### Words and their bytes -/

theorem toNat_highByte (w : Word) : (w.extractLsb' 8 8).toNat = w.toNat / 256 := by
  have := w.isLt
  rw [BitVec.extractLsb'_toNat, Nat.shiftRight_eq_div_pow]
  omega

theorem toNat_lowByte (w : Word) : (w.extractLsb' 0 8).toNat = w.toNat % 256 := by
  rw [BitVec.extractLsb'_toNat, Nat.shiftRight_zero]

theorem toNat_append_bytes (hi lo : Byte) : (hi ++ lo).toNat = 256 * hi.toNat + lo.toNat := by
  rw [BitVec.toNat_append, ← Nat.shiftLeft_add_eq_or_of_lt lo.isLt, Nat.shiftLeft_eq, Nat.mul_comm]

/-! ### Jumps and skips -/

/-- Settles O24, by the sum of a 12-bit and an 8-bit number, which 16 bits hold. -/
theorem jumpV0AddsOffset : Obligations.JumpV0AddsOffset := by
  intro s nnn
  have hn := nnn.isLt
  have hv := (s.getV 0).isLt
  have hzext : (zext8 (s.getV 0)).toNat = (s.getV 0).toNat := BitVec.toNat_setWidth_of_le (by decide)
  have hpc : (zext12 nnn + zext8 (s.getV 0)).toNat = nnn.toNat + (s.getV 0).toNat := by
    rw [BitVec.toNat_add, toNat_zext12, hzext]
    omega
  refine ⟨_, exec_jpV0 s nnn, hpc, ?_, onlyChanges_setPc s _⟩
  rw [State.setPc_pc, hpc]
  omega

/-- Settles O30, by the `PC` after a skip on equality or inequality and the frame of a skip. -/
theorem skipsOnRegister : Obligations.SkipsOnRegister := by
  intro s x y
  exact ⟨⟨_, exec_seReg s x y, State.skipIf_beq_pc s _ _, onlyChanges_skipIf s _⟩,
    ⟨_, exec_sneReg s x y, State.skipIf_bne_pc s _ _, onlyChanges_skipIf s _⟩⟩

theorem keyNumber_eq {b : Byte} {k : Fin 16} (h : k.val = b.toNat % 16) : keyNumber b = k := by
  apply Fin.ext
  rw [h]
  exact BitVec.extractLsb'_toNat 0 4 b

/-- Settles O32, by the key the register names, the one query and the skip on its answer. -/
theorem skipsOnKey : Obligations.SkipsOnKey := by
  intro s x k hk
  have hkey : keyNumber (s.getV x) = k := keyNumber_eq hk
  refine ⟨⟨_, exec_skp s x, ?_, ?_, onlyChanges_queryKey_skipIf s _⟩,
    ⟨_, exec_sknp s x, ?_, ?_, onlyChanges_queryKey_skipIf s _⟩⟩
  · rw [State.skipIf_pc, State.queryKey_pc, hkey]
  · rw [State.skipIf_inputs, State.queryKey_inputs, Inputs.queryKey_keyReads]
  · rw [State.skipIf_pc, State.queryKey_pc, hkey]
    cases s.keyDown k <;> rfl
  · rw [State.skipIf_inputs, State.queryKey_inputs, Inputs.queryKey_keyReads]

/-! ### The call stack -/

theorem State.readByte_setPc (s : State) (w : Word) (a : Nat) : (s.setPc w).readByte a = s.readByte a := rfl

/-- The word pushed is the word in the new slot. -/
theorem State.readWord_push (s : State) (w : Word) : (s.push w).readWord (slotAddr (s.sp + 1#8)) = w :=
  State.readWord_writeWord { s with sp := s.sp + 1#8 } _ w

/-- Settles O25, by the two bytes a push writes and the frame of a push and a `PC` write. -/
theorem callPushesReturnAddress : Obligations.CallPushesReturnAddress := by
  intro s nnn
  have hslot := slotAddr_bounds (s.sp + 1#8)
  have hhi : slotAddr (s.sp + 1#8) % 4096 = slotAddr (s.sp + 1#8) := by omega
  have hlo : (slotAddr (s.sp + 1#8) + 1) % 4096 = slotAddr (s.sp + 1#8) + 1 := by omega
  refine ⟨_, exec_call s nnn, ?_, ?_, slotAddr_eq _, ?_, ?_, onlyChanges_exec_call s _ _⟩
  · rw [State.setPc_sp, State.push_sp, BitVec.toNat_add]
    rfl
  · rw [State.setPc_pc, toNat_zext12]
  · rw [State.setPc_sp, State.push_sp, State.readByte_setPc, State.readByte_push, hhi, if_pos rfl, toNat_highByte]
  · rw [State.setPc_sp, State.push_sp, State.readByte_setPc, State.readByte_push, hlo, if_neg (by omega), if_pos rfl,
      toNat_lowByte]

/-- Settles O26, by the word at the top of the stack as its two bytes and the frame of a pop and a `PC` write. -/
theorem returnPopsSlot : Obligations.ReturnPopsSlot := by
  intro s
  refine ⟨_, exec_ret s, ?_, ?_, onlyChanges_seq (onlyChanges_dropTop s) (onlyChanges_setPc s.dropTop _)⟩
  · have hlo : 0x100 + 2 * s.sp.toNat + 1 = 0x101 + 2 * s.sp.toNat := by omega
    rw [State.setPc_pc, State.topOfStack, slotAddr_eq, State.readWord, toNat_append_bytes, hlo]
  · rw [State.setPc_sp, State.dropTop_sp, toNat_sub_byte]
    rfl

/-- Settles O27: the word at the top of the stack is the one the call pushed, and `SP` goes back. -/
theorem returnUndoesCall : Obligations.ReturnUndoesCall := by
  intro s t u nnn hcall hsp hhi hlo
  cases (exec_call s nnn).symm.trans hcall
  refine ⟨_, exec_ret u, ?_, ?_⟩
  · rw [State.setPc_pc, State.topOfStack, hsp, State.readWord, hhi, hlo]
    exact State.readWord_push s s.pc
  · rw [State.setPc_sp, State.dropTop_sp, hsp, State.setPc_sp, State.push_sp, BitVec.add_sub_cancel]

/-- `SP` counts the pushes modulo 256. -/
theorem State.push_iterate_sp (s : State) (w : Word) (n : Nat) :
    ((fun u : State => u.push w)^[n] s).sp.toNat = (s.sp.toNat + n) % 256 := by
  induction n with
  | zero => exact (Nat.mod_eq_of_lt s.sp.isLt).symm
  | succ n ih =>
    rw [Function.iterate_succ_apply', State.push_sp, BitVec.toNat_add, ih]
    show ((s.sp.toNat + n) % 256 + 1) % 256 = _
    omega

/-- Pushes stay in the slots, 0x100 to 0x2FF. -/
theorem onlyChanges_push_iterate (s : State) (w : Word) (n : Nat) :
    OnlyChanges (fun p => p = .sp ∨ ∃ a : Fin 4096, p = .mem a ∧ 0x100 ≤ a.val ∧ a.val ≤ 0x2FF) s
      ((fun u : State => u.push w)^[n] s) := by
  induction n with
  | zero => exact onlyChanges_refl _ s
  | succ n ih =>
    rw [Function.iterate_succ_apply']
    refine onlyChanges_trans ih (onlyChanges_mono (onlyChanges_push _ w) ?_)
    rintro p (hp | ⟨a, hp, ha⟩)
    · exact .inl hp
    · have hslot := slotAddr_bounds (((fun u : State => u.push w)^[n] s).sp + 1#8)
      exact .inr ⟨a, hp, by omega, by omega⟩

/-- Settles O28, by the `SP` after `n` pushes, the word of the last one and the frame of all of them. -/
theorem stackWrapsSilently : Obligations.StackWrapsSilently := by
  intro n s w hsp hn
  have hcount : ((fun u : State => u.push w)^[n] s).sp.toNat = n % 256 := by
    rw [State.push_iterate_sp, hsp]
    simp
  refine ⟨hcount, ?_, onlyChanges_push_iterate s w n⟩
  obtain ⟨m, rfl⟩ : ∃ m, n = m + 1 := ⟨n - 1, by omega⟩
  rw [← hcount, ← slotAddr_eq, Function.iterate_succ_apply', State.push_sp, State.readWord_push]

end Sys2Proof.Machine
end

section
/-! Proofs about index, memory transfer and timer registers (44_index_memory_timer_ops.md) and 2-byte accesses (00_scope.md rule
R9): what is stored where, read back by the rule for a block store or a block load. -/

namespace Sys2Proof.Machine

open Sys2Proof.Safety

/-! ### One write -/

theorem toNat_glyphAddr (b : Byte) : (glyphAddr b).toNat = 5 * b.toNat := by
  have := b.isLt
  show (BitVec.ofNat 16 (0 + 5 * b.toNat)).toNat = _
  rw [BitVec.toNat_ofNat]
  omega

/-- Settles O40, by the 16-bit sum, five times a byte as a word and the frame of an `I` write. -/
theorem indexAddAndGlyphLookup : Obligations.IndexAddAndGlyphLookup := by
  intro s x
  have hzext : (zext8 (s.getV x)).toNat = (s.getV x).toNat := BitVec.toNat_setWidth_of_le (by decide)
  refine ⟨⟨_, exec_addI s x, ?_, onlyChanges_setI s _⟩, ⟨_, exec_ldF s x, toNat_glyphAddr _, onlyChanges_setI s _⟩⟩
  rw [State.setI_i, BitVec.toNat_add, hzext]

/-- Settles O46, by the one field each instruction writes. -/
theorem timerWrites : Obligations.TimerWrites := by
  intro s x
  exact ⟨⟨_, exec_ldDtVx s x, rfl, onlyChanges_dt s _⟩, ⟨_, exec_ldStVx s x, rfl, onlyChanges_st s _⟩⟩

/-! ### Blocks -/

/-- Element `j` of a stored block is at `a + j`. -/
theorem State.readByte_storeBytes_at (s : State) (a : Nat) (bs : List Byte) (hl : bs.length ≤ 4096) {j : Nat}
    (hj : j < bs.length) : (s.storeBytes a bs).readByte (a + j) = bs.getD j 0#8 := by
  have hoffset : (a + j + 4096 - a % 4096) % 4096 = j := by omega
  rw [State.readByte_storeBytes s a bs hl, hoffset, if_pos hj]

/-- Settles O41, by the three digits, each a number below 10, and the frame of `LD B`. -/
theorem decimalDigitsStored : Obligations.DecimalDigitsStored := by
  intro s x
  have hv := (s.getV x).isLt
  have hstored (j : Nat) (hj : j < 3) : (s.storeBytes (s.elemAddr 0) (bcdDigits (s.getV x))).readByte (s.elemAddr j) =
      (bcdDigits (s.getV x)).getD j 0#8 :=
    State.readByte_storeBytes_at s (s.elemAddr 0) (bcdDigits (s.getV x)) (by rw [length_bcdDigits]; decide) hj
  refine ⟨_, exec_ldB s x, ?_, ?_, ?_, onlyChanges_exec (exec_ldB s x)⟩
  · rw [hstored 0 (by decide)]
    exact Nat.mod_eq_of_lt (by omega)
  · rw [hstored 1 (by decide)]
    exact Nat.mod_eq_of_lt (by omega)
  · rw [hstored 2 (by decide)]
    exact Nat.mod_eq_of_lt (by omega)

/-- Register `j` of the block `V[0]` to `V[x]` is stored at `I + j`. -/
theorem State.readByte_storeRegs (s : State) {x j : Reg} (hj : j.val ≤ x.val) :
    (s.storeBytes (s.elemAddr 0) (s.regBlock x)).readByte (s.elemAddr j.val) = s.getV j := by
  have hlen := s.length_regBlock x
  rw [← State.getD_regBlock s hj]
  exact State.readByte_storeBytes_at s (s.elemAddr 0) (s.regBlock x) (by omega) (by omega)

/-- After the block load up to `V[x]`. -/
theorem State.getV_loadRegs (s : State) (x j : Reg) :
    (s.loadRegBlock (s.elemAddr 0) (x.val + 1)).getV j =
      if j.val ≤ x.val then s.readByte (s.elemAddr j.val) else s.getV j := by
  simp only [State.getV_loadRegBlock s _ _ (Nat.succ_le_of_lt x.isLt), Nat.lt_succ_iff]
  rfl

/-- Settles O42, by the block store and its frame. -/
theorem registerBlockStored : Obligations.RegisterBlockStored := by
  intro s x
  exact ⟨_, exec_storeRegs s x, fun j hj => State.readByte_storeRegs s hj, onlyChanges_exec_storeRegs s x⟩

/-- Settles O43, by the block load and its frame. -/
theorem registerBlockLoaded : Obligations.RegisterBlockLoaded := by
  intro s x
  refine ⟨_, exec_loadRegs s x, fun j hj => ?_, onlyChanges_exec_loadRegs s x⟩
  rw [State.getV_loadRegs, if_pos hj]

/-- Settles O44: the load reads at the same `I` what the store left there. -/
theorem loadUndoesStore : Obligations.LoadUndoesStore := by
  intro s t u x hstore hi hmem
  cases (exec_storeRegs s x).symm.trans hstore
  have helem (j : Nat) : u.elemAddr j = s.elemAddr j := by
    rw [State.elemAddr, hi, State.storeBytes_i, State.elemAddr]
  refine ⟨_, exec_loadRegs u x, fun j hj => ?_, fun j hj => ?_⟩
  · rw [State.getV_loadRegs, if_pos hj, helem, hmem, State.readByte_storeRegs s hj]
  · rw [State.getV_loadRegs, if_neg (Nat.not_le_of_lt hj)]

/-! ### Two-byte accesses -/

/-- Settles O48, by the reads after the two byte writes and the frames of both. -/
theorem wordAccessIsTwoBytes : Obligations.WordAccessIsTwoBytes := by
  intro s a w
  have hne : a % 4096 ≠ (a + 1) % 4096 := by omega
  refine ⟨?_, ?_, ?_, State.readWord_writeWord s a w, ?_⟩
  · rw [State.readWord, toNat_append_bytes, State.readByte_mod, State.readByte_mod]
  · rw [State.readByte_mod, State.writeWord, State.readByte_writeByte, if_neg hne, State.readByte_writeByte, if_pos rfl,
      toNat_highByte]
  · rw [State.readByte_mod, State.writeWord, State.readByte_writeByte, if_pos rfl, toNat_lowByte]
  · refine onlyChanges_mono (onlyChanges_seq (onlyChanges_writeByte s a _) (onlyChanges_writeByte _ (a + 1) _)) ?_
    rintro p (⟨k, hp, hk⟩ | ⟨k, hp, hk⟩)
    · exact ⟨k, hp, .inl hk⟩
    · exact ⟨k, hp, .inr hk⟩

end Sys2Proof.Machine
end

section
/-! Proofs about the sprite draw (43_display.md section 3): the pixels and the flag of `drawRows`, for one draw and for two of
the same sprite at the same place. -/

namespace Sys2Proof.Machine

open Sys2Proof.Safety

/-- Settles O35: the two clears are one operation. -/
theorem highResClearActsAsClear : Obligations.HighResClearActsAsClear := by
  intro s
  have hsame : exec .hrcls s = exec .cls s := (exec_hrcls s).trans (exec_cls s).symm
  refine ⟨hsame, ?_⟩
  rw [hsame]
  exact clearScreen s

/-- What the draw instruction makes of a pixel, in the terms of the state. -/
theorem State.pixel_drawRows_spriteBytes (s : State) (vx vy : Byte) {n : Nat} (hn : n ≤ 32) (r : Fin 32) (c : Fin 64) :
    (drawRows vx vy (s.spriteBytes n) s.grid).1.pixel r c =
      if rowOffset vy r < n ∧ columnOffset vx c < 8 then
        (s.grid.pixel r c).update
          ((s.grid.pixel r c).lit ^^ spriteBit (s.readByte (s.i.toNat + rowOffset vy r)) (columnOffset vx c))
      else s.grid.pixel r c := by
  rw [drawRows_pixel _ _ _ (by rwa [State.length_spriteBytes]), State.length_spriteBytes]
  split
  · next h => rw [State.getD_spriteBytes s h.1]
  · rfl

/-- The collision flag of the draw instruction, in the terms of the state. -/
theorem State.drawRows_spriteBytes_flag (s : State) (vx vy : Byte) {n : Nat} (hn : n ≤ 32) (g : Grid) :
    (drawRows vx vy (s.spriteBytes n) g).2 = true ↔
      ∃ j k, j < n ∧ k < 8 ∧ spriteBit (s.readByte (s.i.toNat + j)) k = true ∧
        (g.pixel (spriteRow vy j) (spriteColumn vx k)).lit = true := by
  rw [drawRows_flag _ _ _ (by rwa [State.length_spriteBytes]), State.length_spriteBytes]
  refine exists_congr fun j => exists_congr fun k => and_congr_right fun hj => ?_
  rw [State.getD_spriteBytes s hj]

/-- Settles O36, by what the sprite loops make of a pixel, which is `SetPixel` of the old value XOR the sprite bit. -/
theorem drawSpritePixels : Obligations.DrawSpritePixels := by
  intro s x y n hn
  refine ⟨_, exec_drw s x y n, State.pixel_drawRows_spriteBytes s _ _ (by omega), ?_, onlyChanges_exec_drw s _ _⟩
  rw [State.getV_setV_same]
  exact flagByte_zero_or_one _

/-- Settles O37, by the collision flag of the sprite loops. -/
theorem drawCollisionFlag : Obligations.DrawCollisionFlag := by
  intro s x y n hn
  have hflag := State.drawRows_spriteBytes_flag s (s.getV x) (s.getV y) (n := n) (by omega) s.grid
  refine ⟨_, exec_drw s x y n, ?_, fun h0 => ?_⟩
  · rw [State.getV_setV_same, flagByte_eq_one_iff, hflag]
    constructor
    · rintro ⟨j, k, hj, hk, hbit, hlit⟩
      exact ⟨j, k, _, _, hj, hk, spriteRow_val _ j, spriteColumn_val _ k, hbit, hlit⟩
    · rintro ⟨j, k, r, c, hj, hk, hr, hc, hbit, hlit⟩
      obtain rfl : r = spriteRow (s.getV y) j := Fin.ext hr
      obtain rfl : c = spriteColumn (s.getV x) k := Fin.ext hc
      exact ⟨j, k, hj, hk, hbit, hlit⟩
  · subst h0
    rw [State.getV_setV_same]
    rfl

/-! ### Drawing twice -/

/-- Two draws of one sprite at one place give each pixel its old `lit` back: the same bit is taken XOR twice. -/
theorem drawRows_twice_lit (vx vy : Byte) (bytes : List Byte) (hl : bytes.length ≤ 32) (g : Grid) (r : Fin 32) (c : Fin 64) :
    ((drawRows vx vy bytes (drawRows vx vy bytes g).1).1.pixel r c).lit = (g.pixel r c).lit := by
  rw [drawRows_pixel _ _ _ hl, drawRows_pixel _ _ _ hl]
  split
  · rw [Pixel.lit_update, Pixel.lit_update, Bool.xor_assoc, Bool.xor_self, Bool.xor_false]
  · rfl

/-- The pixel under bit `k` of sprite row `j`. -/
theorem drawRows_pixel_target (vx vy : Byte) (bytes : List Byte) (hl : bytes.length ≤ 32) (g : Grid) {j k : Nat}
    (hj : j < bytes.length) (hk : k < 8) :
    (drawRows vx vy bytes g).1.pixel (spriteRow vy j) (spriteColumn vx k) =
      (g.pixel (spriteRow vy j) (spriteColumn vx k)).update
        ((g.pixel (spriteRow vy j) (spriteColumn vx k)).lit ^^ spriteBit (bytes.getD j 0#8) k) := by
  have hrow : rowOffset vy (spriteRow vy j) = j := (spriteRow_eq_iff vy (by omega) _).1 rfl
  have hcol : columnOffset vx (spriteColumn vx k) = k := (spriteColumn_eq_iff vx (by omega) _).1 rfl
  rw [drawRows_pixel _ _ _ hl, hrow, hcol, if_pos ⟨hj, hk⟩]

/-- An unlit pixel under a set bit is lit by the first draw and fades from the second. -/
theorem drawRows_twice_phase (vx vy : Byte) (bytes : List Byte) (hl : bytes.length ≤ 32) (g : Grid) {j k : Nat}
    (hj : j < bytes.length) (hk : k < 8) (hbit : spriteBit (bytes.getD j 0#8) k = true)
    (hunlit : (g.pixel (spriteRow vy j) (spriteColumn vx k)).lit = false) :
    ((drawRows vx vy bytes (drawRows vx vy bytes g).1).1.pixel (spriteRow vy j) (spriteColumn vx k)).phase = 0 := by
  rw [drawRows_pixel_target _ _ _ hl _ hj hk, drawRows_pixel_target _ _ _ hl _ hj hk, hbit, hunlit]
  rfl

/-- The sprite is read from memory at `I`. -/
theorem State.spriteBytes_congr {s t : State} (hmem : t.mem = s.mem) (hi : t.i = s.i) (n : Nat) :
    t.spriteBytes n = s.spriteBytes n := by
  simp only [State.spriteBytes, State.elemAddr, hi, State.readByte_congr hmem]

/-- What a draw leaves for the next one. -/
theorem exec_drw_next {s t : State} {x y : Reg} {n : Nat} (h : exec (.drw x y n) s = .next t) :
    t.grid = (drawRows (s.getV x) (s.getV y) (s.spriteBytes n) s.grid).1 ∧ t.mem = s.mem ∧ t.i = s.i := by
  cases (exec_drw s x y n).symm.trans h
  exact ⟨rfl, rfl, rfl⟩

/-- Settles O38: the second draw runs on the grid of the first with the same coordinates and the same sprite. -/
theorem doubleDrawRestoresLit : Obligations.DoubleDrawRestoresLit := by
  intro s t x y n hn hdraw hx hy
  obtain ⟨hgrid, hmem, hi⟩ := exec_drw_next hdraw
  have hl : (s.spriteBytes n).length ≤ 32 := by rw [State.length_spriteBytes]; omega
  have hbyte {j : Nat} (hj : j < n) : (s.spriteBytes n).getD j 0#8 = s.readByte (s.i.toNat + j) :=
    State.getD_spriteBytes s hj
  have hflag := State.drawRows_spriteBytes_flag s (s.getV x) (s.getV y) (n := n) (by omega) t.grid
  have hsecond := exec_drw t x y n
  rw [hx, hy, State.spriteBytes_congr hmem hi] at hsecond
  refine ⟨_, hsecond, ?_⟩
  rw [State.getV_setV_same, flagByte_eq_one_iff, hflag, State.setV_grid, hgrid]
  refine ⟨drawRows_twice_lit _ _ _ hl s.grid, Iff.rfl, fun hunlit => ?_, fun j k hj hk hset hunlit => ?_⟩
  · refine exists_congr fun j => exists_congr fun k => and_congr_right fun hj => and_congr_right fun hk => ?_
    rw [drawRows_pixel_target _ _ _ hl _ (by rwa [State.length_spriteBytes]) hk, Pixel.lit_update, hunlit j k hj hk,
      hbyte hj, Bool.false_xor]
    exact and_self_iff
  · exact drawRows_twice_phase _ _ _ hl s.grid (by rwa [State.length_spriteBytes]) hk (by rwa [hbyte hj]) hunlit

end Sys2Proof.Machine
end

section
/-! Proofs about which instructions write what (10_state.md, 20_memory.md section 4, 43_display.md, 45_random_input.md): a piece
that changed is one the instruction may change, and `mayChange` is read instruction by instruction. -/

namespace Sys2Proof.Machine

open Sys2Proof.Safety

/-! ### Who may change a piece -/

section
variable {i : Instr} {s : State}

theorem mayChange_sp (h : mayChange i s .sp) : i = .ret ∨ ∃ a, i = .call a := by
  cases i <;> simp_all [mayChange]

theorem mayChange_i (h : mayChange i s .i) : (∃ a, i = .ldI a) ∨ ∃ x, i = .addI x ∨ i = .ldF x := by
  cases i <;> simp_all [mayChange]

theorem mayChange_dt (h : mayChange i s .dt) : ∃ x, i = .ldDtVx x := by
  cases i <;> simp_all [mayChange]

theorem mayChange_st (h : mayChange i s .st) : ∃ x, i = .ldStVx x := by
  cases i <;> simp_all [mayChange]

theorem mayChange_pc (h : mayChange i s .pc) : i = .ret ∨ (∃ a, i = .jp a ∨ i = .call a ∨ i = .jpV0 a) ∨
    (∃ x kk, i = .seImm x kk ∨ i = .sneImm x kk) ∨ (∃ x y, i = .seReg x y ∨ i = .sneReg x y) ∨
    ∃ x, i = .skp x ∨ i = .sknp x := by
  cases i <;> simp_all [mayChange]

theorem mayChange_random (h : mayChange i s .random) : ∃ x kk, i = .rnd x kk := by
  cases i <;> simp_all [mayChange]

theorem mayChange_keypad (h : mayChange i s .keypad) : ∃ x, i = .skp x ∨ i = .sknp x := by
  cases i <;> simp_all [mayChange]

theorem mayChange_mem {a : Fin 4096} (h : mayChange i s (.mem a)) :
    (∃ a, i = .call a) ∨ ∃ x, i = .ldB x ∨ i = .storeRegs x := by
  cases i <;> simp_all [mayChange]

theorem mayChange_lit {r : Fin 32} {c : Fin 64} (h : mayChange i s (.lit r c)) :
    i = .cls ∨ i = .hrcls ∨ ∃ x y n, i = .drw x y n := by
  cases i <;> simp_all [mayChange]

theorem mayChange_phase {r : Fin 32} {c : Fin 64} (h : mayChange i s (.phase r c)) :
    i = .cls ∨ i = .hrcls ∨ ∃ x y n, i = .drw x y n := by
  cases i <;> simp_all [mayChange]

/-- The instructions with a flag. -/
def setsFlag (i : Instr) : Prop :=
  ∃ x y, i = .addReg x y ∨ i = .subReg x y ∨ i = .shr x y ∨ i = .subnReg x y ∨ i = .shl x y ∨ ∃ n, i = .drw x y n

/-- A block load reaches VF only when it loads all 16 registers. -/
theorem mayChange_vf (h : mayChange i s (.v regVF)) : setsFlag i ∨
    (∃ kk, i = .ldImm regVF kk ∨ i = .addImm regVF kk ∨ i = .rnd regVF kk) ∨
    (∃ y, i = .ldReg regVF y ∨ i = .orReg regVF y ∨ i = .andReg regVF y ∨ i = .xorReg regVF y) ∨
    i = .ldVxDt regVF ∨ i = .loadRegs regVF := by
  cases i with
  | loadRegs x =>
    obtain ⟨j, hj, hvf⟩ := h
    obtain rfl : regVF = j := Piece.v.inj hvf
    have hx : x = regVF := Fin.ext (Nat.le_antisymm (Nat.le_of_lt_succ x.isLt) hj)
    simp [hx]
  | _ => simp_all [mayChange, setsFlag]

end

/-- No instruction touches the bookkeeping, the latch or the fault bytes. -/
theorem not_mayChange_bookkeeping (i : Instr) (s : State) {p : Piece}
    (hp : p ∈ [.accNs, .tsRef, .halted, .faultHi, .faultLo, .clock]) : ¬ mayChange i s p := by
  simp only [List.mem_cons, List.not_mem_nil, or_false] at hp
  rcases hp with rfl | rfl | rfl | rfl | rfl | rfl <;> cases i <;> simp [mayChange]

/-! ### Settled from there -/

theorem Pixel.eq_of_fields {p q : Pixel} (hlit : p.lit = q.lit) (hphase : p.phase = q.phase) : p = q := by
  cases p
  cases q
  rw [Pixel.mk.injEq]
  exact ⟨hlit, hphase⟩

/-- Settles O49: each register that changed names its writers. -/
theorem specialRegisterWriters : Obligations.SpecialRegisterWriters := by
  intro i s t h
  exact ⟨fun hne => mayChange_sp (mayChange_of_not_same h hne), fun hne => mayChange_i (mayChange_of_not_same h hne),
    fun hne => mayChange_dt (mayChange_of_not_same h hne), fun hne => mayChange_st (mayChange_of_not_same h hne),
    fun hne => mayChange_pc (mayChange_of_not_same h hne)⟩

/-- Settles O50: a byte that changed, at any address, is one of the 4096, and a pixel that changed has changed in `lit` or in
`phase`. -/
theorem memoryAndDisplayWriters : Obligations.MemoryAndDisplayWriters := by
  intro i s t h
  refine ⟨fun ⟨a, hne⟩ => ?_, fun ⟨r, c, hne⟩ => ?_⟩
  · rw [← State.readByte_mod t, ← State.readByte_mod s] at hne
    exact mayChange_mem (mayChange_of_not_same h (p := .mem ⟨a % 4096, Nat.mod_lt _ (by decide)⟩) hne)
  · by_cases hlit : (t.grid.pixel r c).lit = (s.grid.pixel r c).lit
    · have hphase : (t.grid.pixel r c).phase ≠ (s.grid.pixel r c).phase := fun e => hne (Pixel.eq_of_fields hlit e)
      exact mayChange_phase (mayChange_of_not_same h (p := .phase r c) hphase)
    · exact mayChange_lit (mayChange_of_not_same h (p := .lit r c) hlit)

/-- A flag-setting instruction leaves 0 or 1 in VF, whatever its destination (41_alu.md rule R141, decision D11). -/
theorem getV_vf_of_setsFlag {i : Instr} {s t : State} (hi : setsFlag i) (h : exec i s = .next t) :
    ∃ c, t.getV regVF = flagByte c := by
  obtain ⟨x, y, rfl | rfl | rfl | rfl | rfl | ⟨n, rfl⟩⟩ := hi
  · cases (exec_addReg s x y).symm.trans h
    exact ⟨_, State.getV_setResultFlag_vf s x _ _⟩
  · cases (exec_subReg s x y).symm.trans h
    exact ⟨_, State.getV_setResultFlag_vf s x _ _⟩
  · cases (exec_shr s x y).symm.trans h
    exact ⟨_, State.getV_setResultFlag_vf s x _ _⟩
  · cases (exec_subnReg s x y).symm.trans h
    exact ⟨_, State.getV_setResultFlag_vf s x _ _⟩
  · cases (exec_shl s x y).symm.trans h
    exact ⟨_, State.getV_setResultFlag_vf s x _ _⟩
  · cases (exec_drw s x y n).symm.trans h
    exact ⟨_, State.getV_setV_same _ regVF _⟩

/-- Settles O51: what may change VF has a flag, which is 0 or 1, or has VF as its destination. -/
theorem flagRegisterWriters : Obligations.FlagRegisterWriters := by
  intro i s t h hne
  refine (mayChange_vf (mayChange_of_not_same h (p := .v regVF) hne)).imp_left fun hflag => ⟨hflag, ?_⟩
  obtain ⟨c, hc⟩ := getV_vf_of_setsFlag hflag h
  rw [hc]
  exact flagByte_zero_or_one c

/-- Settles O33: RND, SKP and SKNP make one query each, and no other instruction may change an input. -/
theorem queriesPerInstruction : Obligations.QueriesPerInstruction := by
  intro i s t h
  have hrandom (hn : ¬ ∃ x kk, i = .rnd x kk) : Piece.random.same s t :=
    onlyChanges_exec h .random fun hm => hn (mayChange_random hm)
  have hkeypad (hn : ¬ ∃ x, i = .skp x ∨ i = .sknp x) : Piece.keypad.same s t :=
    onlyChanges_exec h .keypad fun hm => hn (mayChange_keypad hm)
  refine ⟨?_, ?_, fun hn => hrandom fun ⟨x, kk, e⟩ => hn x kk e, fun hn => hkeypad fun ⟨x, e⟩ => e.elim (hn x).1 (hn x).2⟩
  · split
    · next hi =>
      obtain ⟨x, kk, rfl⟩ := hi
      cases (exec_rnd s x kk).symm.trans h
      rfl
    · next hi => exact (hrandom hi).2
  · split
    · next hi =>
      obtain ⟨x, rfl | rfl⟩ := hi
      · cases (exec_skp s x).symm.trans h
        rw [State.skipIf_inputs, State.queryKey_inputs, Inputs.queryKey_keyReads]
      · cases (exec_sknp s x).symm.trans h
        rw [State.skipIf_inputs, State.queryKey_inputs, Inputs.queryKey_keyReads]
    · next hi => exact (hkeypad hi).2

end Sys2Proof.Machine
end

section
/-! Proofs about the decay tick and the timers (43_display.md sections 4 and 5, 60_exceptions.md section 7): one pixel and one
update first, then their iterates. -/

namespace Sys2Proof.Machine

open Sys2Proof.Safety

/-! ### The decay of a pixel -/

theorem Pixel.phase_decay_val (p : Pixel) : p.decay.phase.val = min 10 (p.phase.val + 1) := by
  have hle : p.phase.val ≤ 10 := Nat.le_of_lt_succ p.phase.isLt
  by_cases h : p.phase < Phase.settled
  · rw [Pixel.decay, if_pos h]
    exact Nat.mod_eq_of_lt (by omega)
  · have hge : 10 ≤ p.phase.val := Nat.le_of_not_lt h
    rw [Pixel.decay, if_neg h]
    omega

theorem Pixel.decay_settled {p : Pixel} (h : p.phase = Phase.settled) : p.decay = p := by
  rw [Pixel.decay, h, if_neg (lt_irrefl _)]

theorem Pixel.phase_decay_iterate_val (p : Pixel) (k : Nat) :
    ((Pixel.decay^[k] p).phase).val = min 10 (p.phase.val + k) := by
  have hle : p.phase.val ≤ 10 := Nat.le_of_lt_succ p.phase.isLt
  induction k with
  | zero => exact (Nat.min_eq_right hle).symm
  | succ k ih =>
    rw [Function.iterate_succ_apply', Pixel.phase_decay_val, ih]
    omega

theorem Pixel.lit_decay_iterate (p : Pixel) (k : Nat) : (Pixel.decay^[k] p).lit = p.lit := by
  induction k with
  | zero => rfl
  | succ k ih => rw [Function.iterate_succ_apply', Pixel.lit_decay, ih]

/-- A pixel `k` ticks after it went dark. -/
theorem Pixel.decay_iterate_dark (k : Nat) : Pixel.decay^[k] Pixel.dark = { lit := false, phase := Fin.ofNat 11 (min 10 k) } := by
  refine Pixel.eq_of_fields (Pixel.lit_decay_iterate _ k) (Fin.ext ?_)
  rw [Pixel.phase_decay_iterate_val]
  show min 10 (0 + k) = min 10 k % 11
  omega

theorem State.pixel_decayTick_iterate (s : State) (k : Nat) (r : Fin 32) (c : Fin 64) :
    (State.decayTick^[k] s).grid.pixel r c = Pixel.decay^[k] (s.grid.pixel r c) := by
  induction k with
  | zero => rfl
  | succ k ih =>
    rw [Function.iterate_succ_apply', Function.iterate_succ_apply', State.decayTick_grid, Grid.pixel_decay, ih]

/-- The decay tick changes nothing but phases. -/
theorem onlyChanges_decayTick (s : State) : OnlyChanges (fun p => ∃ r c, p = .phase r c) s s.decayTick := by
  intro p hp
  cases p with
  | phase r c => exact absurd ⟨r, c, rfl⟩ hp
  | lit r c => simp [Piece.same]
  | v k => exact State.getV_congr (State.decayTick_v s) k
  | mem a => exact State.readByte_congr (State.decayTick_mem s) a
  | _ => simp [Piece.same]

/-- Settles O10, by the decay of one pixel, once and iterated, and the frame of the tick. -/
theorem decayTickRaisesUnsettledPhases : Obligations.DecayTickRaisesUnsettledPhases := by
  intro s
  refine ⟨fun r c => ?_, onlyChanges_decayTick s, fun r c k h0 => ?_⟩
  · have hle : (s.grid.pixel r c).phase.val ≤ 10 := Nat.le_of_lt_succ (s.grid.pixel r c).phase.isLt
    rw [State.decayTick_grid, Grid.pixel_decay, Pixel.phase_decay_val]
    split <;> omega
  · rw [State.pixel_decayTick_iterate, Pixel.phase_decay_iterate_val, h0, Nat.zero_add]

/-- Settles O11: a dark pixel is at `k` tenths until it settles, and a lit one is settled from the start. -/
theorem fadeRenderTable : Obligations.FadeRenderTable := by
  refine ⟨fun k => ?_, fun k => ?_⟩
  · rw [Pixel.decay_iterate_dark]
    by_cases hk : k < 10
    · rw [if_pos hk]
      interval_cases k <;> decide
    · rw [if_neg hk, Nat.min_eq_left (Nat.le_of_not_lt hk)]
      decide
  · rw [Function.iterate_fixed (Pixel.decay_settled rfl)]
    decide

/-! ### The timer update -/

theorem onlyChanges_runTimers (s : State) (acc : Nat) :
    OnlyChanges (fun p => p = .accNs ∨ p = .dt ∨ p = .st) s (s.runTimers acc) := by
  intro p hp
  cases p with
  | accNs => exact absurd (.inl rfl) hp
  | dt => exact absurd (.inr (.inl rfl)) hp
  | st => exact absurd (.inr (.inr rfl)) hp
  | v k => exact State.getV_congr (State.runTimers_v s acc) k
  | mem a => exact State.readByte_congr (State.runTimers_mem s acc) a
  | _ => simp [Piece.same]

theorem onlyChanges_timerUpdate (s : State) (now : Nat) :
    OnlyChanges (fun p => p = .accNs ∨ p = .dt ∨ p = .st) s (s.timerUpdate now) := by
  cases h : s.tsRef with
  | none =>
    rw [State.timerUpdate_none h]
    exact onlyChanges_refl _ s
  | some t =>
    rw [State.timerUpdate_some h]
    exact onlyChanges_runTimers s _

/-- Below a period the time accumulates. -/
theorem State.runTimers_of_lt (s : State) {acc : Nat} (h : acc < 16666666) :
    (s.runTimers acc).accNs = acc ∧ (s.runTimers acc).dt = s.dt ∧ (s.runTimers acc).st = s.st := by
  have hticks : timerTicks acc = 0 := by rw [timerTicks_eq, if_neg (Nat.not_le_of_lt h)]
  rw [State.runTimers_accNs, State.runTimers_dt, State.runTimers_st, hticks, countDown_zero, countDown_zero]
  exact ⟨by omega, rfl, rfl⟩

/-- A whole period is turned into one tick. -/
theorem State.runTimers_of_le (s : State) {acc : Nat} (h : 16666666 ≤ acc) :
    (s.runTimers acc).accNs + 16666666 = acc ∧ (s.runTimers acc).dt.toNat = s.dt.toNat - 1 ∧
      (s.runTimers acc).st.toNat = s.st.toNat - 1 := by
  have hticks : timerTicks acc = 1 := by rw [timerTicks_eq, if_pos h]
  rw [State.runTimers_accNs, State.runTimers_dt, State.runTimers_st, hticks, countDown_one_toNat, countDown_one_toNat,
    params_timerPeriodNs]
  exact ⟨by omega, rfl, rfl⟩

/-- Settles O14, by the run of the timers below a period and from a period on. -/
theorem timerUpdateCountsOnePeriod : Obligations.TimerUpdateCountsOnePeriod := by
  intro s now
  refine ⟨fun h => State.timerUpdate_none h now, fun t h _ => ?_, onlyChanges_timerUpdate s now⟩
  rw [State.timerUpdate_some h]
  exact ⟨State.runTimers_of_lt s, State.runTimers_of_le s⟩

/-- One update with an increment below a period, from less than a period accumulated: quotient and remainder. -/
theorem State.timerUpdate_divMod {s : State} {t e : Nat} (h : s.tsRef = some t) (hacc : s.accNs < 16666666)
    (he : e < 16666666) :
    (s.timerUpdate (t + e)).accNs = (s.accNs + e) % 16666666 ∧
      (s.timerUpdate (t + e)).dt.toNat = s.dt.toNat - (s.accNs + e) / 16666666 ∧
      (s.timerUpdate (t + e)).st.toNat = s.st.toNat - (s.accNs + e) / 16666666 := by
  rw [State.timerUpdate_some h, Nat.add_sub_cancel_left]
  rcases Nat.lt_or_ge (s.accNs + e) 16666666 with hlt | hge
  · obtain ⟨ha, hd, hs⟩ := State.runTimers_of_lt s hlt
    rw [ha, hd, hs, Nat.div_eq_of_lt hlt, Nat.mod_eq_of_lt hlt]
    exact ⟨rfl, rfl, rfl⟩
  · obtain ⟨ha, hd, hs⟩ := State.runTimers_of_le s hge
    rw [hd, hs]
    omega

/-- Settles O17, by induction on the increments: quotients add up, and the remainder goes into the next update. -/
theorem timerCadence : Obligations.TimerCadence := by
  intro es
  induction es with
  | nil =>
    intro s t _ hacc _
    simp only [List.foldl_nil, List.sum_nil]
    omega
  | cons e es ih =>
    intro s t href hacc hes
    obtain ⟨ha, hd, hs⟩ := State.timerUpdate_divMod href hacc (hes e List.mem_cons_self)
    have hlt : (s.timerUpdate (t + e)).accNs < 16666666 := ha ▸ Nat.mod_lt _ (by decide)
    obtain ⟨ha', hd', hs'⟩ := ih { s.timerUpdate (t + e) with tsRef := some (t + e) } (t + e) rfl hlt fun x hx =>
      hes x (List.mem_cons_of_mem e hx)
    refine ⟨ha'.trans ?_, hd'.trans ?_, hs'.trans ?_⟩
    · simp only [ha, List.sum_cons]
      omega
    · simp only [ha, hd, List.sum_cons]
      omega
    · simp only [ha, hs, List.sum_cons]
      omega

end Sys2Proof.Machine
end

section
/-! Proofs about the step (40_step_cycle.md, 60_exceptions.md): its bookkeeping, the decoded instruction or the fault, and what
either leaves; then the invariants every step keeps. -/

namespace Sys2Proof.Machine

open Sys2Proof.Safety

/-! ### The bookkeeping -/

theorem onlyChanges_sampleClock (s : State) : OnlyChanges (fun p => p = .clock) s s.sampleClock := by
  intro p hp
  cases p with
  | clock => exact absurd rfl hp
  | v k => exact State.getV_congr (State.sampleClock_v s) k
  | mem a => exact State.readByte_congr (State.sampleClock_mem s) a
  | _ => simp [Piece.same]

theorem onlyChanges_bookkeep (s : State) :
    OnlyChanges (fun p => p = .dt ∨ p = .st ∨ p = .accNs ∨ p = .clock ∨ ∃ r c, p = .phase r c) s s.bookkeep := by
  refine onlyChanges_mono (onlyChanges_seq (onlyChanges_seq (onlyChanges_decayTick s) (onlyChanges_sampleClock _))
    (onlyChanges_timerUpdate _ _)) ?_
  rintro p ((hphase | hclock) | hacc | hdt | hst)
  · exact .inr (.inr (.inr (.inr hphase)))
  · exact .inr (.inr (.inr (.inl hclock)))
  · exact .inr (.inr (.inl hacc))
  · exact .inl hdt
  · exact .inr (.inl hst)

/-- Before there is a reference the timers stand (60_exceptions.md rule R267). -/
theorem State.bookkeep_of_no_ref {s : State} (h : s.tsRef = none) : s.bookkeep = s.decayTick.sampleClock :=
  State.timerUpdate_none (s := s.decayTick.sampleClock) h _

/-- The state the instruction runs on: bookkept, and past its word. -/
theorem State.bookkeep_advancePc_eq (s : State) : s.bookkeep.advancePc =
    (s.decayTick.sampleClock.timerUpdate (s.inputs.clockNs + s.inputs.nextElapsed)).setPc (s.pc + 2#16) := by
  rw [State.advancePc, State.bookkeep_pc]
  rfl

/-- An instruction leaves the bookkeeping, the latch and the fault report alone. -/
theorem exec_keeps_bookkeeping {i : Instr} {s t : State} (h : exec i s = .next t) :
    t.halted = s.halted ∧ t.faultHi = s.faultHi ∧ t.faultLo = s.faultLo ∧ t.accNs = s.accNs ∧ t.tsRef = s.tsRef ∧
      Piece.clock.same s t := by
  have hsame {p : Piece} (hp : p ∈ [.accNs, .tsRef, .halted, .faultHi, .faultLo, .clock]) : p.same s t :=
    onlyChanges_exec h p (not_mayChange_bookkeeping i s hp)
  exact ⟨hsame (p := .halted) (by decide), hsame (p := .faultHi) (by decide), hsame (p := .faultLo) (by decide),
    hsame (p := .accNs) (by decide), hsame (p := .tsRef) (by decide), hsame (by decide)⟩

/-! ### The step -/

theorem onlyChanges_raiseUnknownOpcode (s : State) (hi lo : Byte) :
    OnlyChanges (fun p => p = .halted ∨ p = .faultHi ∨ p = .faultLo) s (s.raiseUnknownOpcode hi lo) := by
  intro p hp
  cases p with
  | halted => exact absurd (.inl rfl) hp
  | faultHi => exact absurd (.inr (.inl rfl)) hp
  | faultLo => exact absurd (.inr (.inr rfl)) hp
  | v k => exact State.getV_congr (State.raiseUnknownOpcode_v s hi lo) k
  | mem a => exact State.readByte_congr (State.raiseUnknownOpcode_mem s hi lo) a
  | _ => simp [Piece.same]

/-- Everything the word itself does when it faults. -/
theorem onlyChanges_fault (s : State) (hi lo : Byte) :
    OnlyChanges (fun p => p = .pc ∨ p = .halted ∨ p = .faultHi ∨ p = .faultLo) s (s.advancePc.raiseUnknownOpcode hi lo) :=
  onlyChanges_seq (onlyChanges_setPc s _) (onlyChanges_raiseUnknownOpcode s.advancePc hi lo)

/-- A running core has a step: the instruction's, with the reference refreshed, or the fault's. -/
theorem step_of_running {s : State} (hr : s.halted = false) : ∃ t, step s = .next t := by
  rcases decode_cases s.fetchHi s.fetchLo with ⟨r, _, _, hd⟩ | ⟨_, hd⟩
  · obtain ⟨u, hu⟩ := exec_next (r.build (s.fetchHi ++ s.fetchLo)) s.bookkeep.advancePc
    exact ⟨u.refreshRef, by rw [step_of_decode hr hd, hu]; rfl⟩
  · exact ⟨_, step_of_reject hr hd⟩

/-- Settles O6, by the step of a word that decodes and of one that does not; the sample stored is the one the clock had. -/
theorem stepRunsDecodedInstruction : Obligations.StepRunsDecodedInstruction := by
  intro s hr
  refine ⟨fun i hd => ?_, fun ⟨hi, lo⟩ hd => ?_⟩
  · obtain ⟨t, ht⟩ := exec_next i s.bookkeep.advancePc
    obtain ⟨_, _, _, _, _, hclock, _, _⟩ := exec_keeps_bookkeeping ht
    refine ⟨t, by rw [← State.bookkeep_advancePc_eq, ht], ?_⟩
    rw [step_of_decode hr hd, ht, endStep, State.refreshRef, State.nowNs, hclock, State.advancePc_inputs,
      State.bookkeep_inputs, Inputs.sampleClock_clockNs]
  · obtain ⟨rfl, rfl⟩ := decode_error hd
    rw [← State.bookkeep_advancePc_eq]
    exact step_of_reject hr hd

/-- Settles O7: a running core has a step, and a halted one answers with its report. -/
theorem stepAnswersExactlyWhenRunning : Obligations.StepAnswersExactlyWhenRunning := by
  intro s
  exact ⟨⟨fun ⟨_, ht⟩ => (step_cases ht).1, step_of_running⟩, step_of_halted⟩

/-- Settles O8, by the step of a word that decodes to nothing and the frames of the fault and of the bookkeeping. -/
theorem unknownOpcodeLatchesReport : Obligations.UnknownOpcodeLatchesReport := by
  intro s hr hnone
  rcases decode_cases s.fetchHi s.fetchLo with ⟨r, _, _, hd⟩ | ⟨_, hd⟩
  · exact absurd hd (hnone _)
  · refine ⟨_, step_of_reject hr hd, rfl, rfl, rfl, ?_, ?_, onlyChanges_fault _ _ _, ?_⟩
    · rw [State.raiseUnknownOpcode_pc, State.advancePc_pc, State.bookkeep_pc, BitVec.add_sub_cancel]
    · rw [State.raiseUnknownOpcode_tsRef, State.advancePc_tsRef, State.bookkeep_tsRef]
    · refine onlyChanges_mono (onlyChanges_seq (onlyChanges_bookkeep s) (onlyChanges_fault s.bookkeep _ _)) ?_
      rintro p (hbook | hpc | hhalted | hhi | hlo)
      · exact .inr (.inr (.inr (.inr hbook)))
      · exact .inl hpc
      · exact .inr (.inl hhalted)
      · exact .inr (.inr (.inl hhi))
      · exact .inr (.inr (.inr (.inl hlo)))

/-- A step that ran an instruction left the core running. -/
theorem running_after_exec {i : Instr} {s u : State} (hr : s.halted = false) (hu : exec i s.bookkeep.advancePc = .next u) :
    u.refreshRef.halted = false := by
  rw [State.refreshRef_halted, (exec_keeps_bookkeeping hu).1, State.advancePc_halted, State.bookkeep_halted, hr]

/-- Settles O9: the two kinds of step, told apart by whether some row matches the word. -/
theorem onlyUnmatchedWordsRaise : Obligations.OnlyUnmatchedWordsRaise := by
  refine ⟨fun s hr => ?_, fun i s => ?_⟩
  · obtain ⟨t, ht⟩ := step_of_running hr
    refine ⟨t, ht, ?_⟩
    have hrejects := decode_rejects_iff s.fetchHi s.fetchLo
    simp only [Bool.not_eq_true] at hrejects
    refine Iff.trans ?_ hrejects
    obtain ⟨_, ⟨i, u, hd, hu, rfl⟩ | ⟨hd, rfl⟩⟩ := step_cases ht
    · rw [running_after_exec hr hu, hd]
      exact iff_of_false Bool.false_ne_true nofun
    · exact iff_of_true rfl hd
  · obtain ⟨t, ht⟩ := exec_next i s
    exact ⟨t, ht, exec_keeps_bookkeeping ht⟩

/-- Settles O16: with no reference the bookkeeping leaves the accumulator and the timers, and the instruction changes a timer
only when it loads it. -/
theorem firstStepDecrementsNothing : Obligations.FirstStepDecrementsNothing := by
  intro s t hr href hstep
  have hbook := State.bookkeep_of_no_ref href
  obtain ⟨_, ⟨i, u, hd, hu, rfl⟩ | ⟨hd, rfl⟩⟩ := step_cases hstep
  · replace hd : decode (s.readByte s.pc.toNat) (s.readByte (s.pc.toNat + 1)) = .ok i := hd
    rw [hbook] at hu
    obtain ⟨_, _, _, hacc, _, _⟩ := exec_keeps_bookkeeping hu
    simp only [hd, Except.ok.injEq, ne_eq]
    refine ⟨hacc, fun _ => rfl, fun hne => ?_, fun hne => ?_, ?_, ?_⟩
    · exact onlyChanges_exec hu .dt fun hm => (mayChange_dt hm).elim hne
    · exact onlyChanges_exec hu .st fun hm => (mayChange_st hm).elim hne
    · rintro x rfl
      cases (exec_ldDtVx _ x).symm.trans hu
      rfl
    · rintro x rfl
      cases (exec_ldStVx _ x).symm.trans hu
      rfl
  · replace hd : decode (s.readByte s.pc.toNat) (s.readByte (s.pc.toNat + 1)) = .error _ := hd
    simp only [hd, hbook]
    exact ⟨rfl, nofun, fun _ => rfl, fun _ => rfl, nofun, nofun⟩

/-! ### The invariants -/

/-- Memory stays canonical: CALL, `LD B` and `LD [I]` write it through the bus, and no other instruction writes it. -/
theorem wf_exec {i : Instr} {s t : State} (h : exec i s = .next t) (hs : s.mem.wf) : t.mem.wf := by
  cases i with
  | call nnn => cases h; exact State.wf_push s.pc hs
  | ldB x => cases h; exact State.wf_storeBytes _ _ hs
  | storeRegs x => cases h; exact State.wf_storeBytes _ _ hs
  | _ => cases h; simpa using hs

/-- Settles O52, by the memory each kind of step leaves. -/
theorem stepKeepsMemoryCanonical : Obligations.StepKeepsMemoryCanonical := by
  intro s t hs hstep
  have hready : s.bookkeep.advancePc.mem.wf := by rwa [State.advancePc_mem, State.bookkeep_mem]
  obtain ⟨_, ⟨i, u, _, hu, rfl⟩ | ⟨_, rfl⟩⟩ := step_cases hstep
  · exact (wf_exec hu hready : u.mem.wf)
  · exact hready

/-- A pixel given a new value is lit and settled, or it is unlit. -/
theorem Pixel.settled_update (p : Pixel) (new : Bool) (h : (p.update new).lit = true) :
    (p.update new).phase = Phase.settled := by
  rw [Pixel.lit_update] at h
  subst h
  rfl

/-- The sprite draw keeps lit pixels settled: a pixel is updated or left. -/
theorem litSettled_drw {s : State} (hs : LitSettled s) (vx vy : Byte) {n : Nat} (hn : n ≤ 32) (r : Fin 32) (c : Fin 64)
    (hlit : ((drawRows vx vy (s.spriteBytes n) s.grid).1.pixel r c).lit = true) :
    ((drawRows vx vy (s.spriteBytes n) s.grid).1.pixel r c).phase = Phase.settled := by
  rw [State.pixel_drawRows_spriteBytes s vx vy hn] at hlit ⊢
  split at hlit
  · next h => rw [if_pos h]; exact Pixel.settled_update _ _ hlit
  · next h => rw [if_neg h]; exact hs r c hlit

/-- A grid whose pixels are those of a settled one. -/
theorem litSettled_of_pixel_eq {s t : State} (hs : LitSettled s) (h : ∀ r c, t.grid.pixel r c = s.grid.pixel r c) :
    LitSettled t := by
  intro r c
  rw [h]
  exact hs r c

theorem litSettled_exec {i : Instr} {s t : State} (hwf : i.wellFormed = true) (h : exec i s = .next t) (hs : LitSettled s) :
    LitSettled t := by
  by_cases hi : i = .cls ∨ i = .hrcls ∨ ∃ x y n, i = .drw x y n
  · intro r c hlit
    obtain rfl | rfl | ⟨x, y, n, rfl⟩ := hi
    · cases (exec_cls s).symm.trans h
      rw [State.pixel_clearGrid] at hlit
      cases hlit
    · cases (exec_hrcls s).symm.trans h
      rw [State.pixel_clearGrid] at hlit
      cases hlit
    · have hn : n < 16 := of_decide_eq_true hwf
      cases (exec_drw s x y n).symm.trans h
      exact litSettled_drw hs _ _ (by omega) r c hlit
  · refine litSettled_of_pixel_eq hs fun r c => ?_
    by_contra hne
    exact hi ((memoryAndDisplayWriters i s t h).2 ⟨r, c, hne⟩)

/-- The decay leaves a settled pixel as it is, so it keeps lit pixels settled. -/
theorem litSettled_bookkeep {s : State} (hs : LitSettled s) : LitSettled s.bookkeep := by
  intro r c hlit
  rw [State.bookkeep_grid, Grid.pixel_decay] at hlit ⊢
  rw [Pixel.lit_decay] at hlit
  rw [Pixel.decay_settled (hs r c hlit), hs r c hlit]

/-- Settles O53, by the decay of lit pixels and the display instructions; the decoder gives DRW at most 15 rows. -/
theorem stepKeepsLitSettled : Obligations.StepKeepsLitSettled := by
  intro s t hs hstep
  have hready : LitSettled s.bookkeep.advancePc := litSettled_bookkeep hs
  obtain ⟨_, ⟨i, u, hd, hu, rfl⟩ | ⟨_, rfl⟩⟩ := step_cases hstep
  · exact (litSettled_exec (encode_of_decode hd).1 hu hready : LitSettled u)
  · exact hready

/-- Settles O54: an instruction keeps the core running and its fault bytes, a fault records the word that decodes to nothing. -/
theorem stepKeepsReportTrue : Obligations.StepKeepsReportTrue := by
  intro s t ⟨hrunning, _⟩ hstep
  obtain ⟨hr, ⟨i, u, _, hu, rfl⟩ | ⟨hd, rfl⟩⟩ := step_cases hstep
  · obtain ⟨_, hhi, hlo, _⟩ := exec_keeps_bookkeeping hu
    have hfalse := running_after_exec hr hu
    refine ⟨fun _ => ?_, fun htrue => absurd (hfalse.symm.trans htrue) Bool.false_ne_true⟩
    rw [State.refreshRef_faultHi, State.refreshRef_faultLo, hhi, hlo, State.advancePc_faultHi, State.advancePc_faultLo,
      State.bookkeep_faultHi, State.bookkeep_faultLo]
    exact hrunning hr
  · exact ⟨nofun, fun _ => hd⟩

/-- Settles O55: an instruction's step stores the clock itself, a fault's leaves the reference behind a clock that went on. -/
theorem stepKeepsClockAhead : Obligations.StepKeepsClockAhead := by
  intro s t hs hstep
  obtain ⟨_, ⟨i, u, _, _, rfl⟩ | ⟨_, rfl⟩⟩ := step_cases hstep
  · intro x hx
    cases hx
    exact le_refl _
  · intro x hx
    rw [State.raiseUnknownOpcode_tsRef, State.advancePc_tsRef, State.bookkeep_tsRef] at hx
    rw [State.raiseUnknownOpcode_inputs, State.advancePc_inputs, State.bookkeep_inputs]
    exact (hs x hx).trans (Inputs.clock_le_sampleClock s.inputs)

end Sys2Proof.Machine
end

section
/-! Proofs about reset and the host's operations (70_reset_and_hazards.md): each places an image from 0x200 up. -/

namespace Sys2Proof.Machine

open Sys2Proof.Safety

/-! ### Placing an image -/

/-- Every byte after an image of at most 2048 bytes was placed: the image then zeros from 0x200, and what was there below. -/
theorem State.readByte_loadImage (s : State) {bytes : List Byte} (hl : bytes.length ≤ 2048) {a : Nat} (ha : a < 4096) :
    (s.loadImage bytes).readByte a = if a < 0x200 then s.readByte a else bytes.getD (a - 0x200) 0#8 := by
  have hbelow : ({ s with mem := s.mem.zeroProgram } : State).readByte a = if a < 0x200 then s.readByte a else 0#8 := by
    rw [State.readByte_eq, State.readByte_eq, Nat.mod_eq_of_lt ha, Memory.read_zeroProgram]
    split
    · rfl
    · exact background_of_ge (by omega)
  rw [State.loadImage, State.readByte_storeBytes _ _ _ (by omega), hbelow, params_progBase]
  by_cases hlow : a < 0x200
  · rw [if_pos hlow, if_pos hlow, if_neg (by omega)]
  · have hoffset : (a + 4096 - 0x200 % 4096) % 4096 = a - 0x200 := by omega
    rw [if_neg hlow, if_neg hlow, hoffset]
    split
    · rfl
    · rw [List.getD_eq_default _ _ (by omega)]

/-- Placing an image changes memory from 0x200 up and nothing else. -/
theorem onlyChanges_loadImage (s : State) {bytes : List Byte} (hl : bytes.length ≤ 2048) :
    OnlyChanges (fun p => ∃ a : Fin 4096, p = .mem a ∧ 0x200 ≤ a.val) s (s.loadImage bytes) := by
  intro p hp
  cases p with
  | mem a =>
    have hlow : a.val < 0x200 := Nat.lt_of_not_le fun h => hp ⟨a, rfl, h⟩
    exact (State.readByte_loadImage s hl a.isLt).trans (if_pos hlow)
  | v k => exact State.getV_congr (State.storeBytes_v _ _ _) k
  | _ => simp [Piece.same, State.loadImage]

/-- Placing an image keeps every invariant. -/
theorem sound_loadImage {s : State} (hs : Sound s) (bytes : List Byte) : Sound (s.loadImage bytes) := by
  obtain ⟨hmem, hlit, hreport, hclock⟩ := hs
  refine ⟨State.wf_loadImage bytes hmem, ?_, ?_, ?_⟩
  · exact litSettled_of_pixel_eq hlit fun r c => by rw [State.loadImage, State.storeBytes_grid]
  · simpa [ReportTrue, State.loadImage] using hreport
  · simpa [ClockAhead, State.loadImage] using hclock

/-! ### Reset -/

/-- The reset state with any inputs meets every invariant: no memory entry, no lit pixel, no fault, no reference. -/
theorem sound_reset (inputs : Inputs) : Sound { State.reset with inputs := inputs } := by
  refine ⟨Memory.wf_nil, fun r c hlit => ?_, ⟨fun _ => ⟨rfl, rfl⟩, nofun⟩, nofun⟩
  have hdark : Grid.dark.pixel r c = Pixel.dark := Grid.pixel_dark r c
  cases (congrArg Pixel.lit hdark).symm.trans hlit

theorem sound_boot (rom : List Byte) (inputs : Inputs) : Sound (State.boot rom inputs) :=
  sound_loadImage (sound_reset inputs) rom

theorem hostReset_eq {rom : List Byte} (h : rom.length ≤ 2048) (s : State) :
    hostReset rom s = .next (State.boot rom s.inputs) := if_pos h

theorem hostLoad_eq {bytes : List Byte} (h : bytes.length ≤ 2048) (s : State) :
    hostLoad bytes s = .next (s.loadImage bytes) := if_pos h

theorem hostReset_refuses {rom : List Byte} (h : 2048 < rom.length) (s : State) :
    hostReset rom s = .refused .imageTooLong := if_neg (Nat.not_le_of_lt h)

theorem hostLoad_refuses {bytes : List Byte} (h : 2048 < bytes.length) (s : State) :
    hostLoad bytes s = .refused .imageTooLong := if_neg (Nat.not_le_of_lt h)

/-- Settles O56: reset starts from a sound state and every operation places an image, which keeps it so. -/
theorem hostOperationsKeepSound : Obligations.HostOperationsKeepSound := by
  refine ⟨sound_reset State.reset.inputs, fun s t bytes => ⟨fun h => ?_, fun hs h => ?_, fun hs h => ?_⟩⟩
  · rcases Nat.lt_or_ge 2048 bytes.length with hlong | hfits
    · cases (hostReset_refuses hlong s).symm.trans h
    · cases (hostReset_eq hfits s).symm.trans h
      exact sound_boot bytes s.inputs
  · rcases Nat.lt_or_ge 2048 bytes.length with hlong | hfits
    · cases (hostLoad_refuses hlong s).symm.trans h
    · cases (hostLoad_eq hfits s).symm.trans h
      exact sound_loadImage hs bytes
  · cases h
    exact sound_loadImage hs []

/-- The registers, the bookkeeping and the grid are those of `State.reset`. -/
theorem onlyChanges_boot (inputs : Inputs) {rom : List Byte} (h : rom.length ≤ 2048) :
    OnlyChanges (fun p => ∃ a : Fin 4096, p = .mem a ∧ 0x200 ≤ a.val) { State.reset with inputs := inputs }
      (State.boot rom inputs) :=
  onlyChanges_loadImage _ h

/-- Settles O59: everything but the image is what the reset state has, and the image is in its place. -/
theorem resetGivesBootState : Obligations.ResetGivesBootState := by
  intro s rom hl
  have hsame {p : Piece} (hp : ∀ a, p ≠ .mem a) : p.same { State.reset with inputs := s.inputs } (State.boot rom s.inputs) :=
    onlyChanges_boot s.inputs hl p fun ⟨a, ha, _⟩ => hp a ha
  have hbyte {a : Nat} (ha : a < 4096) := State.readByte_loadImage { State.reset with inputs := s.inputs } hl ha
  have hreset {a : Nat} (ha : a < 4096) : ({ State.reset with inputs := s.inputs } : State).readByte a = background a :=
    congrArg background (Nat.mod_eq_of_lt ha)
  refine ⟨_, hostReset_eq hl s, fun x => (hsame (p := .v x) nofun).trans ?_, hsame (p := .i) nofun, hsame (p := .pc) nofun,
    hsame (p := .sp) nofun, hsame (p := .dt) nofun, hsame (p := .st) nofun, hsame (p := .accNs) nofun,
    hsame (p := .tsRef) nofun, hsame (p := .halted) nofun, hsame (p := .faultHi) nofun, hsame (p := .faultLo) nofun,
    fun a ha => ?_, fun a hge hlt => ?_, fun a hge hlt => ?_, fun r c => ⟨?_, ?_⟩⟩
  · exact Vector.getElem_replicate x.isLt
  · rw [State.boot, hbyte (by omega), if_pos (by omega), hreset (by omega)]
    rfl
  · rw [State.boot, hbyte (by omega), if_pos hlt, hreset (by omega), background_of_ge hge]
  · rw [State.boot, hbyte hlt, if_neg (Nat.not_lt_of_le hge)]
  · exact (hsame (p := .lit r c) nofun).trans (congrArg Pixel.lit (Grid.pixel_dark r c))
  · exact (hsame (p := .phase r c) nofun).trans (congrArg Pixel.phase (Grid.pixel_dark r c))

/-- Settles O60, by the bytes and the frame of a placed image, the empty one among them, and the refusal of a longer one. -/
theorem loadReplacesProgramRegion : Obligations.LoadReplacesProgramRegion := by
  intro s bytes
  have hempty : ([] : List Byte).length ≤ 2048 := by decide
  refine ⟨fun hl => ⟨_, hostLoad_eq hl s, fun a hge hlt => ?_, onlyChanges_loadImage s hl⟩, fun hl => hostLoad_refuses hl s,
    _, rfl, fun a hge hlt => ?_, onlyChanges_loadImage s hempty⟩
  · rw [State.readByte_loadImage s hl hlt, if_neg (Nat.not_lt_of_le hge)]
  · rw [State.readByte_loadImage s hempty hlt, if_neg (Nat.not_lt_of_le hge), List.getD_nil]

end Sys2Proof.Machine
end

section
/-! Proofs of noninterference (10_state.md section 6, 70_reset_and_hazards.md section 3). Two states are `Alike` when they agree in
every piece a program can see: each operation, given the same arguments, keeps two states alike, so each instruction and each
step does. -/

namespace Sys2Proof.Machine

open Sys2Proof.Safety

/-- `t` is `s` but for pieces that `may` names, which are among the phases and `I`, and `I` agrees on the bus's 12 bits. -/
structure Alike (may : Piece → Prop) (s t : State) : Prop where
  hidden : ∀ p, may p → p = .i ∨ ∃ r c, p = .phase r c
  frame : OnlyChanges may s t
  index : t.i.toNat % 4096 = s.i.toNat % 4096

namespace Alike

variable {may : Piece → Prop} {s t : State} (h : Alike may s t)
include h

/-! ### What the two states share -/

/-- A piece that is neither `I` nor a phase. -/
theorem same {p : Piece} (hi : p ≠ .i) (hphase : ∀ r c, p ≠ .phase r c) : p.same s t :=
  h.frame p fun hp => (h.hidden p hp).elim hi fun ⟨r, c, e⟩ => hphase r c e

theorem getV (x : Reg) : t.getV x = s.getV x := h.same (p := .v x) nofun nofun

theorem pc : t.pc = s.pc := h.same (p := .pc) nofun nofun

theorem sp : t.sp = s.sp := h.same (p := .sp) nofun nofun

theorem lit (r : Fin 32) (c : Fin 64) : (t.grid.pixel r c).lit = (s.grid.pixel r c).lit := h.same (p := .lit r c) nofun nofun

theorem readByte (a : Nat) : t.readByte a = s.readByte a := by
  rw [← State.readByte_mod t, ← State.readByte_mod s]
  exact h.same (p := .mem ⟨a % 4096, Nat.mod_lt _ (by decide)⟩) nofun nofun

/-- The bus takes the two addresses of an element to one. -/
theorem elemAddr (j : Nat) : t.elemAddr j % 4096 = s.elemAddr j % 4096 := by
  have := h.index
  unfold State.elemAddr
  omega

theorem readElem (j : Nat) : t.readByte (t.elemAddr j) = s.readByte (s.elemAddr j) := by
  rw [h.readByte, ← State.readByte_mod, h.elemAddr, State.readByte_mod]

theorem spriteBytes (n : Nat) : t.spriteBytes n = s.spriteBytes n := by
  simp only [State.spriteBytes, h.readElem]

theorem regBlock (x : Reg) : t.regBlock x = s.regBlock x := by
  have hv : t.v = s.v := Vector.ext fun k hk => h.getV ⟨k, hk⟩
  rw [State.regBlock, State.regBlock, hv]

theorem topOfStack : t.topOfStack = s.topOfStack := by
  rw [State.topOfStack, State.topOfStack, State.readWord, State.readWord, h.sp, h.readByte, h.readByte]

theorem keyDown (k : Fin 16) : t.keyDown k = s.keyDown k := by
  obtain ⟨hkeypad, hreads⟩ := h.same (p := .keypad) nofun nofun
  rw [State.keyDown, State.keyDown, Inputs.nextKey, Inputs.nextKey, hkeypad, hreads]

theorem randByte : t.randByte = s.randByte := by
  obtain ⟨hrandom, hreads⟩ := h.same (p := .random) nofun nofun
  rw [State.randByte, State.randByte, Inputs.nextRandom, Inputs.nextRandom, hrandom, hreads]

theorem nextElapsed : t.inputs.nextElapsed = s.inputs.nextElapsed := by
  obtain ⟨_, helapsed, hreads⟩ := h.same (p := .clock) nofun nofun
  rw [Inputs.nextElapsed, Inputs.nextElapsed, helapsed, hreads]

/-! ### Operations with the same arguments -/

theorem setV (x : Reg) (b : Byte) : Alike may (s.setV x b) (t.setV x b) where
  hidden := h.hidden
  index := h.index
  frame p hp := by
    cases p with
    | v k =>
      have hk : t.getV k = s.getV k := h.getV k
      simp only [Piece.same, State.getV_setV, hk]
    | _ => exact h.frame _ hp

theorem setPc (w : Word) : Alike may (s.setPc w) (t.setPc w) where
  hidden := h.hidden
  index := h.index
  frame p hp := by
    cases p with
    | pc => rfl
    | _ => exact h.frame _ hp

/-- An `I` write of two words that agree where the two states do. -/
theorem setI {w w' : Word} (hvisible : ¬ may .i → w' = w) (hlow : w'.toNat % 4096 = w.toNat % 4096) :
    Alike may (s.setI w) (t.setI w') where
  hidden := h.hidden
  index := hlow
  frame p hp := by
    cases p with
    | i => exact hvisible hp
    | _ => exact h.frame _ hp

theorem setDt (b : Byte) : Alike may { s with dt := b } { t with dt := b } where
  hidden := h.hidden
  index := h.index
  frame p hp := by
    cases p with
    | dt => rfl
    | _ => exact h.frame _ hp

theorem setSt (b : Byte) : Alike may { s with st := b } { t with st := b } where
  hidden := h.hidden
  index := h.index
  frame p hp := by
    cases p with
    | st => rfl
    | _ => exact h.frame _ hp

theorem setSp (b : Byte) : Alike may { s with sp := b } { t with sp := b } where
  hidden := h.hidden
  index := h.index
  frame p hp := by
    cases p with
    | sp => rfl
    | _ => exact h.frame _ hp

/-- A byte write at two addresses that are one on the bus. -/
theorem writeByte {a a' : Nat} (ha : a' % 4096 = a % 4096) (b : Byte) : Alike may (s.writeByte a b) (t.writeByte a' b) where
  hidden := h.hidden
  index := h.index
  frame p hp := by
    cases p with
    | mem k => simp only [Piece.same, State.readByte_writeByte, ha, h.readByte]
    | _ => exact h.frame _ hp

theorem queryRandom : Alike may s.queryRandom t.queryRandom where
  hidden := h.hidden
  index := h.index
  frame p hp := by
    cases p with
    | random =>
      obtain ⟨hrandom, hreads⟩ := h.frame .random hp
      exact ⟨congrArg List.tail hrandom, congrArg (· + 1) hreads⟩
    | _ => exact h.frame _ hp

theorem queryKey : Alike may s.queryKey t.queryKey where
  hidden := h.hidden
  index := h.index
  frame p hp := by
    cases p with
    | keypad =>
      obtain ⟨hkeypad, hreads⟩ := h.frame .keypad hp
      exact ⟨congrArg List.tail hkeypad, congrArg (· + 1) hreads⟩
    | _ => exact h.frame _ hp

/-- New grids that agree in `lit`, and in every phase that is not hidden. -/
theorem setGrid {g g' : Grid} (hlit : ∀ r c, (g'.pixel r c).lit = (g.pixel r c).lit)
    (hphase : ∀ r c, ¬ may (.phase r c) → (g'.pixel r c).phase = (g.pixel r c).phase) :
    Alike may { s with grid := g } { t with grid := g' } where
  hidden := h.hidden
  index := h.index
  frame p hp := by
    cases p with
    | lit r c => exact hlit r c
    | phase r c => exact hphase r c hp
    | _ => exact h.frame _ hp

/-- A pixel whose phase is not hidden is the same pixel. -/
theorem pixel {r : Fin 32} {c : Fin 64} (hp : ¬ may (.phase r c)) : t.grid.pixel r c = s.grid.pixel r c :=
  Pixel.eq_of_fields (h.lit r c) (h.frame (.phase r c) hp)

theorem clearGrid : Alike may s.clearGrid t.clearGrid := h.setGrid (fun _ _ => rfl) fun _ _ _ => rfl

theorem decayTick : Alike may s.decayTick t.decayTick :=
  h.setGrid (fun r c => by rw [Grid.pixel_decay, Grid.pixel_decay, Pixel.lit_decay, Pixel.lit_decay, h.lit])
    fun r c hp => by rw [Grid.pixel_decay, Grid.pixel_decay, h.pixel hp]

theorem sampleClock : Alike may s.sampleClock t.sampleClock where
  hidden := h.hidden
  index := h.index
  frame p hp := by
    cases p with
    | clock =>
      obtain ⟨hclock, helapsed, hreads⟩ := h.frame .clock hp
      refine ⟨?_, congrArg List.tail helapsed, congrArg (· + 1) hreads⟩
      rw [State.sampleClock_inputs, Inputs.sampleClock_clockNs, hclock, h.nextElapsed]
      rfl
    | _ => exact h.frame _ hp

theorem runTimers (acc : Nat) : Alike may (s.runTimers acc) (t.runTimers acc) where
  hidden := h.hidden
  index := h.index
  frame p hp := by
    cases p with
    | accNs => rfl
    | dt => exact congrArg (countDown (timerTicks acc)) (h.frame .dt hp)
    | st => exact congrArg (countDown (timerTicks acc)) (h.frame .st hp)
    | _ => exact h.frame _ hp

theorem refreshRef : Alike may s.refreshRef t.refreshRef where
  hidden := h.hidden
  index := h.index
  frame p hp := by
    cases p with
    | tsRef =>
      obtain ⟨hclock, _, _⟩ := h.same (p := .clock) nofun nofun
      exact congrArg some hclock
    | _ => exact h.frame _ hp

theorem raiseUnknownOpcode (hi lo : Byte) : Alike may (s.raiseUnknownOpcode hi lo) (t.raiseUnknownOpcode hi lo) where
  hidden := h.hidden
  index := h.index
  frame p hp := by
    cases p with
    | halted => rfl
    | faultHi => rfl
    | faultLo => rfl
    | _ => exact h.frame _ hp

/-! ### Operations made of these -/

theorem skipIf (c : Bool) : Alike may (s.skipIf c) (t.skipIf c) := by
  cases c with
  | true =>
    rw [State.skipIf_true, State.skipIf_true, State.advancePc, State.advancePc, h.pc]
    exact h.setPc _
  | false => exact h

theorem setResultFlag (x : Reg) (b : Byte) (c : Bool) : Alike may (s.setResultFlag x b c) (t.setResultFlag x b c) :=
  (h.setV x b).setV regVF (flagByte c)

theorem dropTop : Alike may s.dropTop t.dropTop := by
  rw [State.dropTop, State.dropTop, h.sp]
  exact h.setSp _

theorem push (w : Word) : Alike may (s.push w) (t.push w) := by
  simp only [State.push, h.sp, State.writeWord]
  exact ((h.setSp _).writeByte rfl _).writeByte rfl _

theorem storeBytes {a a' : Nat} (ha : a' % 4096 = a % 4096) (bs : List Byte) :
    Alike may (s.storeBytes a bs) (t.storeBytes a' bs) := by
  induction bs generalizing s t a a' with
  | nil => exact h
  | cons b bs ih => exact ih (h.writeByte ha b) (by omega)

theorem loadRegBlock (n : Nat) : Alike may (s.loadRegBlock (s.elemAddr 0) n) (t.loadRegBlock (t.elemAddr 0) n) := by
  induction n with
  | zero => exact h
  | succ n ih =>
    rw [State.loadRegBlock, State.loadRegBlock]
    have hbyte : t.readByte (t.elemAddr 0 + n) = s.readByte (s.elemAddr 0 + n) := h.readElem n
    rw [hbyte]
    exact ih.setV _ _

theorem timerUpdate (now : Nat) : Alike may (s.timerUpdate now) (t.timerUpdate now) := by
  have href : t.tsRef = s.tsRef := h.same (p := .tsRef) nofun nofun
  have hacc : t.accNs = s.accNs := h.same (p := .accNs) nofun nofun
  cases hs : s.tsRef with
  | none =>
    rw [State.timerUpdate_none hs, State.timerUpdate_none (href.trans hs)]
    exact h
  | some r =>
    rw [State.timerUpdate_some hs, State.timerUpdate_some (href.trans hs), hacc]
    exact h.runTimers _

theorem bookkeep : Alike may s.bookkeep t.bookkeep := by
  obtain ⟨hclock, _, _⟩ := h.same (p := .clock) nofun nofun
  rw [State.bookkeep_eq, State.bookkeep_eq, hclock, h.nextElapsed]
  exact h.decayTick.sampleClock.timerUpdate _

theorem advancePc : Alike may s.advancePc t.advancePc := h.skipIf true

/-- The sprite, its place and what was lit are the same, so what is lit after the draw and the flag are. -/
theorem drawGrid (vx vy : Byte) {n : Nat} (hn : n ≤ 32) :
    Alike may { s with grid := (drawRows vx vy (s.spriteBytes n) s.grid).1 }
      { t with grid := (drawRows vx vy (s.spriteBytes n) t.grid).1 } := by
  have hl : (s.spriteBytes n).length ≤ 32 := by rwa [State.length_spriteBytes]
  refine h.setGrid (fun r c => ?_) fun r c hp => ?_
  · rw [drawRows_pixel _ _ _ hl, drawRows_pixel _ _ _ hl, apply_ite Pixel.lit, apply_ite Pixel.lit, Pixel.lit_update,
      Pixel.lit_update, h.lit]
  · rw [drawRows_pixel _ _ _ hl, drawRows_pixel _ _ _ hl, h.pixel hp]

theorem drawFlag (vx vy : Byte) {n : Nat} (hn : n ≤ 32) :
    (drawRows vx vy (s.spriteBytes n) t.grid).2 = (drawRows vx vy (s.spriteBytes n) s.grid).2 := by
  rw [Bool.eq_iff_iff, State.drawRows_spriteBytes_flag s vx vy hn, State.drawRows_spriteBytes_flag s vx vy hn]
  simp only [h.lit]

end Alike

/-! ### Instructions and steps -/

/-- An address register advanced by the same amount agrees where it did before. -/
theorem toNat_add_mod_4096 {a b : Word} (h : b.toNat % 4096 = a.toNat % 4096) (d : Word) :
    (b + d).toNat % 4096 = (a + d).toNat % 4096 := by
  rw [BitVec.toNat_add, BitVec.toNat_add]
  omega

/-- Every instruction takes alike states to alike states. -/
theorem alike_exec {may : Piece → Prop} {i : Instr} {s t s' t' : State} (hwf : i.wellFormed = true) (h : Alike may s t)
    (hs : exec i s = .next s') (ht : exec i t = .next t') : Alike may s' t' := by
  cases i with
  | cls => cases hs; cases ht; exact h.clearGrid
  | hrcls => cases hs; cases ht; exact h.clearGrid
  | ret => cases hs; cases ht; rw [h.topOfStack]; exact h.dropTop.setPc _
  | jp nnn => cases hs; cases ht; exact h.setPc _
  | call nnn => cases hs; cases ht; rw [h.pc]; exact (h.push _).setPc _
  | jpV0 nnn => cases hs; cases ht; rw [h.getV]; exact h.setPc _
  | seImm x kk => cases hs; cases ht; rw [h.getV]; exact h.skipIf _
  | sneImm x kk => cases hs; cases ht; rw [h.getV]; exact h.skipIf _
  | seReg x y => cases hs; cases ht; rw [h.getV, h.getV]; exact h.skipIf _
  | sneReg x y => cases hs; cases ht; rw [h.getV, h.getV]; exact h.skipIf _
  | skp x => cases hs; cases ht; rw [h.getV, h.keyDown]; exact h.queryKey.skipIf _
  | sknp x => cases hs; cases ht; rw [h.getV, h.keyDown]; exact h.queryKey.skipIf _
  | ldImm x kk => cases hs; cases ht; exact h.setV x _
  | addImm x kk => cases hs; cases ht; rw [h.getV]; exact h.setV x _
  | ldReg x y => cases hs; cases ht; rw [h.getV]; exact h.setV x _
  | orReg x y => cases hs; cases ht; rw [h.getV, h.getV]; exact h.setV x _
  | andReg x y => cases hs; cases ht; rw [h.getV, h.getV]; exact h.setV x _
  | xorReg x y => cases hs; cases ht; rw [h.getV, h.getV]; exact h.setV x _
  | addReg x y => cases hs; cases ht; rw [h.getV, h.getV]; exact h.setResultFlag x _ _
  | subReg x y => cases hs; cases ht; rw [h.getV, h.getV]; exact h.setResultFlag x _ _
  | subnReg x y => cases hs; cases ht; rw [h.getV, h.getV]; exact h.setResultFlag x _ _
  | shr x y =>
    cases (exec_shr s x y).symm.trans hs
    cases (exec_shr t x y).symm.trans ht
    rw [h.getV]
    exact h.setResultFlag x _ _
  | shl x y =>
    cases (exec_shl s x y).symm.trans hs
    cases (exec_shl t x y).symm.trans ht
    rw [h.getV]
    exact h.setResultFlag x _ _
  | rnd x kk => cases hs; cases ht; rw [h.randByte]; exact h.queryRandom.setV x _
  | drw x y n =>
    have hn : n < 16 := of_decide_eq_true hwf
    cases (exec_drw s x y n).symm.trans hs
    cases (exec_drw t x y n).symm.trans ht
    rw [h.getV, h.getV, h.spriteBytes, h.drawFlag _ _ (by omega)]
    exact (h.drawGrid _ _ (by omega)).setV regVF _
  | ldI nnn => cases hs; cases ht; exact h.setI (fun _ => rfl) rfl
  | addI x =>
    cases hs
    cases ht
    rw [h.getV]
    exact h.setI (fun hp => congrArg (· + _) (h.frame .i hp)) (toNat_add_mod_4096 h.index _)
  | ldF x => cases hs; cases ht; rw [h.getV]; exact h.setI (fun _ => rfl) rfl
  | ldVxDt x =>
    have hdt : t.dt = s.dt := h.same (p := .dt) nofun nofun
    cases hs
    cases ht
    rw [hdt]
    exact h.setV x _
  | ldDtVx x => cases hs; cases ht; rw [h.getV]; exact h.setDt _
  | ldStVx x => cases hs; cases ht; rw [h.getV]; exact h.setSt _
  | ldB x => cases hs; cases ht; rw [h.getV]; exact h.storeBytes (h.elemAddr 0) _
  | storeRegs x =>
    cases (exec_storeRegs s x).symm.trans hs
    cases (exec_storeRegs t x).symm.trans ht
    rw [h.regBlock]
    exact h.storeBytes (h.elemAddr 0) _
  | loadRegs x =>
    cases (exec_loadRegs s x).symm.trans hs
    cases (exec_loadRegs t x).symm.trans ht
    exact h.loadRegBlock _

/-- Every step takes alike running states to alike states: both fetch the same word. -/
theorem alike_step {may : Piece → Prop} {s t : State} (h : Alike may s t) (hr : s.halted = false) :
    ∃ s' t', step s = .next s' ∧ step t = .next t' ∧ Alike may s' t' := by
  have hr' : t.halted = false := (h.same (p := .halted) nofun nofun).trans hr
  have hhi : t.fetchHi = s.fetchHi := by rw [State.fetchHi, State.fetchHi, h.pc, h.readByte]
  have hlo : t.fetchLo = s.fetchLo := by rw [State.fetchLo, State.fetchLo, h.pc, h.readByte]
  have hready := h.bookkeep.advancePc
  obtain ⟨s', hs⟩ := step_of_running hr
  obtain ⟨t', ht⟩ := step_of_running hr'
  refine ⟨s', t', hs, ht, ?_⟩
  obtain ⟨_, hcases⟩ := step_cases hs
  obtain ⟨_, hcases'⟩ := step_cases ht
  rw [hhi, hlo] at hcases'
  obtain ⟨i, u, hd, hu, rfl⟩ | ⟨hd, rfl⟩ := hcases
  · obtain ⟨i', u', hd', hu', rfl⟩ | ⟨hd', _⟩ := hcases'
    · cases hd.symm.trans hd'
      exact (alike_exec (encode_of_decode hd).1 hready hu hu').refreshRef
    · cases hd.symm.trans hd'
  · obtain ⟨i', u', hd', _, _⟩ | ⟨_, rfl⟩ := hcases'
    · cases hd.symm.trans hd'
    · exact hready.raiseUnknownOpcode _ _

/-- Settles O57: states that differ in phases alone are alike with the phases hidden. -/
theorem phasesAreInvisible : Obligations.PhasesAreInvisible := by
  intro s t hframe hr
  have hi : t.i = s.i := hframe .i nofun
  obtain ⟨s', t', hs, ht, h⟩ := alike_step ⟨fun _ => .inr, hframe, by rw [hi]⟩ hr
  exact ⟨s', t', hs, ht, h.frame⟩

/-- Settles O58: states that differ in `I` above the bus's 12 bits are alike with `I` hidden. -/
theorem indexHighBitsAreInvisible : Obligations.IndexHighBitsAreInvisible := by
  intro s t hframe hindex hr
  obtain ⟨s', t', hs, ht, h⟩ := alike_step ⟨fun _ => .inl, hframe, hindex⟩ hr
  exact ⟨s', t', hs, ht, h.frame, h.index⟩

end Sys2Proof.Machine
end
